-- ==== Sys2Proof/Word.lean ====
section
/-! DEFINITION. The word types of the block (spec/00_scope.md R7, R8: every quantity is unsigned). -/

namespace Sys2Proof

/-- A byte of a stream, of a packet or of the ring storage. -/
abbrev Byte := BitVec 8

/-- Half a byte: a channel number, a cable number, a Code Index Number. -/
abbrev Nibble := BitVec 4

/-- The value of a data byte, `b[6:0]` (spec/30_encoding.md R84). -/
abbrev Data7 := BitVec 7

/-- Microseconds of the time base, `TIME_W` = 64 bits (spec/00_scope.md R7). -/
abbrev Time := BitVec 64

/-- A statistics counter, `CNT_W` = 32 bits, wrapping (spec/00_scope.md R7). -/
abbrev Count := BitVec 32

end Sys2Proof
end

