-- ==== Sys2Proof/Config.lean ====
section
/-! DEFINITION. The parameters of the block (spec/00_scope.md R7): the values the spec fixes, and the four it leaves
OPEN, which the model takes as an argument (`State.config`, notes/assumptions/1.md). -/

namespace Sys2Proof

/-- The OPEN parameters of R7. No step changes them. -/
structure Config where
  /-- `k` in `RB_CAP = 2^k`, `k >= 1`. -/
  rbLog : Nat
  /-- `HWQ_DEPTH >= 1`. -/
  hwqDepth : Nat
  /-- `SETTLE_US >= 0`. DESIGN CHOICE (notes/assumptions/1.md): R7 gives it no width, so it is any whole number of
  microseconds, of no width; it is no quantity of `TIME_W` bits. -/
  settleUs : Nat
  /-- `SYSEX_STATUS_ABORTS`. -/
  sysexAborts : Bool
deriving DecidableEq, Repr

/-- `N_INT`: internal-channel ids are `0 .. N_INT-1` (R7). -/
abbrev nInt : Nat := 5

/-- `MAP_DISABLED`, the disabled sentinel of a Channel Map entry (R7). -/
def mapDisabled : Byte := 0xFF#8

/-- `MIN_GAP_US` where nothing else is configured (R7). -/
def minGapDefault : Time := 500#64

/-- `CABLE`, the cable nibble of an encoded packet (R7). -/
def cable : Nibble := 0#4

/-- DESIGN CHOICE (notes/assumptions/1.md): the parameters State.reset is built with, those of
spec/95_test_vectors.md section 0, and a settle margin of about one byte time of the link. -/
def Config.vectors : Config := { rbLog := 3, hwqDepth := 4, settleUs := 1000, sysexAborts := false }

end Sys2Proof
end

