-- ==== Sys2Proof/Syntax.lean ====
section
/-! DEFINITION. Messages, packets and the instructions: one constructor of `Instr` per row of spec/opcode_table.json. -/

namespace Sys2Proof

/-- The closed set of message kinds (spec/10_state.md R31). -/
inductive Kind where
  | noteOff | noteOn | polyPressure | controlChange | programChange | channelPressure | pitchBend
  | sysF0 | sysF1 | sysF2 | sysF3 | sysF6
  | rtF8 | rtF9 | rtFA | rtFB | rtFC | rtFD | rtFE | rtFF
deriving DecidableEq, Repr

/-- A Message (spec/10_state.md R30), represented by `raw[0 .. length-1]` alone, as R30 allows: kind, channel and data
fields are functions of it (notes/assumptions/17.md). The empty list is the null message. -/
structure Message where
  raw : List Byte
deriving DecidableEq, Repr

/-- A host-bus packet, `p[0]` to `p[3]` in the order the stack delivers them (spec/20_memory.md R62). -/
structure Packet where
  p0 : Byte
  p1 : Byte
  p2 : Byte
  p3 : Byte
deriving DecidableEq, Repr

/-- `ps_state` (spec/10_state.md R26). -/
inductive ParserState where
  | idle | collectingData1 | collectingData2 | ignoringSystemBlock
deriving DecidableEq, Repr

/-- What the decoding of a stream byte reads beside the byte (spec/30_encoding.md R100, the `when` fields). -/
structure DecodeCtx where
  st : ParserState
  rsValid : Bool
  sysexAborts : Bool
deriving DecidableEq, Repr

/-- The three encoded spaces of spec/30_encoding.md: a controller-stream byte, a host-bus packet, and the raw bytes of a
message given to the encoder (the `ENC` rows of R100). -/
inductive Format where
  | stream | packet | encoder
deriving DecidableEq, Repr

/-- Why bytes are no instruction of a format. No byte of the stream and no 4-byte packet is ever rejected (R80, R96). -/
inductive DecodeError where
  /-- no byte is there -/
  | endOfStream
  /-- fewer than the 4 bytes of a record (spec/20_memory.md R65) -/
  | shortPacket
  /-- the encoder is given the null message (spec/42_codec.md R191) -/
  | nullMessage
  /-- the first raw byte has no kind: a data byte, or F4, F5, F7 (spec/10_state.md R32) -/
  | noKind (status : Byte)
  /-- the length is not `len_of` of the status byte, or a data position holds a status byte (spec/10_state.md R30) -/
  | notAMessage
deriving DecidableEq, Repr

/-- The instructions: the 74 rows of spec/opcode_table.json, in the table's order. -/
inductive Instr where
  -- format CV: a channel-voice status byte, operand the channel nibble
  | noteOffStatus (ch : Nibble)
  | noteOnStatus (ch : Nibble)
  | polyPressureStatus (ch : Nibble)
  | controlChangeStatus (ch : Nibble)
  | programChangeStatus (ch : Nibble)
  | channelPressureStatus (ch : Nibble)
  | pitchBendStatus (ch : Nibble)
  -- format SYS, and a status byte discarded in a system block (operand: its low seven bits)
  | sysexStart
  | sysF1
  | sysF2
  | sysF3
  | undefF4
  | undefF5
  | tuneRequest
  | strayF7
  | sysexEnd
  | inBlockStatus (low : Data7)
  -- format RT
  | rtF8
  | rtF9
  | rtFA
  | rtFB
  | rtFC
  | rtFD
  | rtFE
  | rtFF
  -- format DATA, operand the data value
  | dataResume (v : Data7)
  | dataFirst (v : Data7)
  | dataSecond (v : Data7)
  | dataStray (v : Data7)
  | dataInBlock (v : Data7)
  -- format PKT, operands the cable nibble and the three payload bytes
  | pktCin0 (cn : Nibble) (p1 p2 p3 : Byte)
  | pktCin1 (cn : Nibble) (p1 p2 p3 : Byte)
  | pktSys2 (cn : Nibble) (p1 p2 p3 : Byte)
  | pktSys3 (cn : Nibble) (p1 p2 p3 : Byte)
  | pktCin4 (cn : Nibble) (p1 p2 p3 : Byte)
  | pktSys1 (cn : Nibble) (p1 p2 p3 : Byte)
  | pktCin6 (cn : Nibble) (p1 p2 p3 : Byte)
  | pktCin7 (cn : Nibble) (p1 p2 p3 : Byte)
  | pktNoteOff (cn : Nibble) (p1 p2 p3 : Byte)
  | pktNoteOn (cn : Nibble) (p1 p2 p3 : Byte)
  | pktPolyPressure (cn : Nibble) (p1 p2 p3 : Byte)
  | pktControlChange (cn : Nibble) (p1 p2 p3 : Byte)
  | pktProgramChange (cn : Nibble) (p1 p2 p3 : Byte)
  | pktChannelPressure (cn : Nibble) (p1 p2 p3 : Byte)
  | pktPitchBend (cn : Nibble) (p1 p2 p3 : Byte)
  | pktSingleByte (cn : Nibble) (p1 p2 p3 : Byte)
  -- format ENC, operand the message given to the encoder
  | encChannelVoice (m : Message)
  | encRealTime (r : BitVec 3)
  | encSysF0
  | encSysF6
  | encSysF1 (d : Data7)
  | encSysF3 (d : Data7)
  | encSysF2 (d1 d2 : Data7)
  -- format PORT: selected by a strobe, no bits
  | push (b : Byte)
  | pop
  | drain
  | parse (b : Byte)
  | deliver (m : Message)
  | mbxTake
  | decode (p : Packet)
  | encode (m : Message)
  | onParserMessage (m : Message)
  | mirror (m : Message)
  | route (m : Message)
  | onHostMessage (m : Message)
  | policyDrop (m : Message)
  | forward (m : Message) (e : Fin nInt)
  | pulse
  | mapReplace (map : Vector Byte 16) (enable : Vector Bool nInt)
  | send (b : Byte)
  | flush
  | linkPop
  | poll
  | init (transportOk : Bool) (gap : Option Time)
deriving DecidableEq, Repr

end Sys2Proof
end

