-- ==== Sys2Proof/Machine/Operands.lean ====
section
/-! DEFINITION. Every operand form of the two encoded spaces: fields of a byte, the classification of a status byte
(spec/10_state.md R32), the fields of a Message (R30), and the two CIN tables (spec/30_encoding.md R92, R93). -/

namespace Sys2Proof.Machine

open Sys2Proof

/-! ### Fields of a byte (R8, R81 to R84) -/

/-- The upper nibble, `b[7:4]`. -/
def hiNibble (b : Byte) : Nibble := b.extractLsb' 4 4

/-- The low nibble, `b[3:0]`. -/
def loNibble (b : Byte) : Nibble := b.extractLsb' 0 4

/-- A byte from its two nibbles. -/
def joinNibbles (hi lo : Nibble) : Byte := hi ++ lo

/-- Format DATA: `0ddd dddd` (R84). -/
def dataByte (v : Data7) : Byte := (0#1 : BitVec 1) ++ v

/-- The value of a data byte, `b[6:0]` (R84). -/
def dataValue (b : Byte) : Data7 := b.extractLsb' 0 7

/-- A status byte from its low seven bits. -/
def statusByte (low : Data7) : Byte := (1#1 : BitVec 1) ++ low

/-- Format RT: `1111 1rrr` (R83). -/
def realTimeByte (r : BitVec 3) : Byte := (0x1F#5 : BitVec 5) ++ r

/-- A status byte: bit 7 set (spec/00_scope.md R11). -/
def isStatus (b : Byte) : Bool := 0x80#8 ≤ b

/-- Format CV: `0x80` to `0xEF` (R80). -/
def isChannelVoice (b : Byte) : Bool := 0x80#8 ≤ b && b ≤ 0xEF#8

/-- Format RT: `0xF8` to `0xFF` (R80). -/
def isRealTime (b : Byte) : Bool := 0xF8#8 ≤ b

/-! ### The classification of a status byte (spec/10_state.md R32) -/

/-- `kind_of`; `none` for a data byte and for `F4`, `F5`, `F7`. -/
def kindOf (s : Byte) : Option Kind :=
  match s.toNat / 16 with
  | 8 => some .noteOff
  | 9 => some .noteOn
  | 10 => some .polyPressure
  | 11 => some .controlChange
  | 12 => some .programChange
  | 13 => some .channelPressure
  | 14 => some .pitchBend
  | 15 =>
    match s.toNat % 16 with
    | 0 => some .sysF0
    | 1 => some .sysF1
    | 2 => some .sysF2
    | 3 => some .sysF3
    | 6 => some .sysF6
    | 8 => some .rtF8
    | 9 => some .rtF9
    | 10 => some .rtFA
    | 11 => some .rtFB
    | 12 => some .rtFC
    | 13 => some .rtFD
    | 14 => some .rtFE
    | 15 => some .rtFF
    | _ => none
  | _ => none

/-- The number of data bytes of each kind: the column `nd` of R32. -/
def dataBytesOf : Kind → Nat
  | .noteOff | .noteOn | .polyPressure | .controlChange | .pitchBend | .sysF2 => 2
  | .programChange | .channelPressure | .sysF1 | .sysF3 => 1
  | .sysF0 | .sysF6 | .rtF8 | .rtF9 | .rtFA | .rtFB | .rtFC | .rtFD | .rtFE | .rtFF => 0

/-- `nd(s)`; undefined where `s` has no kind. -/
def nd (s : Byte) : Option Nat := (kindOf s).map dataBytesOf

/-- `len_of(s)`; undefined where `s` has no kind. -/
def lenOf (s : Byte) : Option Nat := (nd s).map (· + 1)

/-- `acc_need` as RESUME and CV_STATUS load it: `nd(s)`. They load it for channel-voice statuses only, on a run from
reset; for a byte without a kind it is 0 (notes/assumptions/21.md). -/
def needOf (s : Byte) : Nat := (nd s).getD 0

/-- The kind byte of an internal bus (R32, D29): the upper nibble of a channel-voice status, the status itself otherwise. -/
def kindByte (s : Byte) : Byte := if isChannelVoice s then s &&& 0xF0#8 else s

/-! ### The fields of a Message (spec/10_state.md R30, spec/30_encoding.md R86) -/

/-- `length`. -/
def msgLength (m : Message) : Nat := m.raw.length

/-- The null message (spec/42_codec.md R172). -/
def nullMessage : Message := { raw := [] }

/-- `raw[0]`, the status byte of a Message that is not null. -/
def msgStatus (m : Message) : Byte := m.raw.headD 0#8

/-- `kind`. -/
def msgKind (m : Message) : Option Kind := m.raw.head?.bind kindOf

/-- `channel`: the low nibble of a channel-voice status, undefined for another kind. -/
def msgChannel (m : Message) : Option Nibble :=
  if isChannelVoice (msgStatus m) then some (loNibble (msgStatus m)) else none

/-- `data1`: defined when `length >= 2`. -/
def msgData1 (m : Message) : Option Byte := m.raw[1]?

/-- `data2`: defined when `length == 3`. -/
def msgData2 (m : Message) : Option Byte := m.raw[2]?

/-- The invariants R30 puts on a Message of `length >= 1`: the length is `len_of` of the status byte and the data bytes
are `< 0x80`. -/
def msgOk (m : Message) : Bool :=
  match m.raw with
  | [] => false
  | s :: ds => lenOf s == some (ds.length + 1) && ds.all (fun d => d < 0x80#8)

/-- A Message of one of the seven channel-voice kinds. -/
def msgIsVoice (m : Message) : Bool := msgOk m && isChannelVoice (msgStatus m)

/-! ### The CIN tables -/

/-- `CIN_LEN`, the byte count each code selects; 0 where the code is not recognised (spec/30_encoding.md R92). -/
def cinLen (cin : Nibble) : Nat :=
  match cin.toNat with
  | 2 => 2
  | 3 => 3
  | 5 => 1
  | 8 => 3
  | 9 => 3
  | 10 => 3
  | 11 => 3
  | 12 => 2
  | 13 => 2
  | 14 => 3
  | 15 => 1
  | _ => 0

/-- `cin_of(kind)` (spec/30_encoding.md R93). -/
def cinOf : Kind → Nibble
  | .noteOff => 0x8#4
  | .noteOn => 0x9#4
  | .polyPressure => 0xA#4
  | .controlChange => 0xB#4
  | .programChange => 0xC#4
  | .channelPressure => 0xD#4
  | .pitchBend => 0xE#4
  | .rtF8 | .rtF9 | .rtFA | .rtFB | .rtFC | .rtFD | .rtFE | .rtFF => 0xF#4
  | .sysF0 | .sysF6 => 0x5#4
  | .sysF1 | .sysF3 => 0x2#4
  | .sysF2 => 0x3#4

/-- `cin`, the low nibble of `p[0]` (spec/30_encoding.md R91). -/
def packetCin (p : Packet) : Nibble := loNibble p.p0

/-- `cn`, the cable number, ignored on decode (spec/30_encoding.md R91). -/
def packetCable (p : Packet) : Nibble := hiNibble p.p0

end Sys2Proof.Machine
end

