-- ==== Sys2Proof/WellFormed.lean ====
section
/-! DEFINITION. Which instructions and parameters are well formed: what the operands' types do not already say. -/

namespace Sys2Proof

open Sys2Proof.Machine

/-- The ranges of the OPEN parameters (spec/00_scope.md R7): `k >= 1` and `HWQ_DEPTH >= 1`. -/
def Config.wf (c : Config) : Bool := decide (1 ≤ c.rbLog) && decide (1 ≤ c.hwqDepth)

/-- Operands that an encoding admits or an operation is defined for: a status byte discarded in a block is `0x80` to
`0xF6` (spec/30_encoding.md R100); an operation on a Message takes one that satisfies spec/10_state.md R30; FORWARD,
POLICY_DROP and the channel-voice encoding take a channel-voice one (spec/43_router.md R204, R205, R207). -/
def Instr.wf : Instr → Bool
  | .noteOffStatus _ => true
  | .noteOnStatus _ => true
  | .polyPressureStatus _ => true
  | .controlChangeStatus _ => true
  | .programChangeStatus _ => true
  | .channelPressureStatus _ => true
  | .pitchBendStatus _ => true
  | .sysexStart => true
  | .sysF1 => true
  | .sysF2 => true
  | .sysF3 => true
  | .undefF4 => true
  | .undefF5 => true
  | .tuneRequest => true
  | .strayF7 => true
  | .sysexEnd => true
  | .inBlockStatus low => decide (low ≤ 0x76#7)
  | .rtF8 => true
  | .rtF9 => true
  | .rtFA => true
  | .rtFB => true
  | .rtFC => true
  | .rtFD => true
  | .rtFE => true
  | .rtFF => true
  | .dataResume _ => true
  | .dataFirst _ => true
  | .dataSecond _ => true
  | .dataStray _ => true
  | .dataInBlock _ => true
  | .pktCin0 _ _ _ _ => true
  | .pktCin1 _ _ _ _ => true
  | .pktSys2 _ _ _ _ => true
  | .pktSys3 _ _ _ _ => true
  | .pktCin4 _ _ _ _ => true
  | .pktSys1 _ _ _ _ => true
  | .pktCin6 _ _ _ _ => true
  | .pktCin7 _ _ _ _ => true
  | .pktNoteOff _ _ _ _ => true
  | .pktNoteOn _ _ _ _ => true
  | .pktPolyPressure _ _ _ _ => true
  | .pktControlChange _ _ _ _ => true
  | .pktProgramChange _ _ _ _ => true
  | .pktChannelPressure _ _ _ _ => true
  | .pktPitchBend _ _ _ _ => true
  | .pktSingleByte _ _ _ _ => true
  | .encChannelVoice m => msgIsVoice m
  | .encRealTime _ => true
  | .encSysF0 => true
  | .encSysF6 => true
  | .encSysF1 _ => true
  | .encSysF3 _ => true
  | .encSysF2 _ _ => true
  | .push _ => true
  | .pop => true
  | .drain => true
  | .parse _ => true
  | .deliver m => msgOk m
  | .mbxTake => true
  | .decode _ => true
  | .encode m => msgOk m
  | .onParserMessage m => msgOk m
  | .mirror m => msgOk m
  | .route m => msgOk m
  | .onHostMessage m => msgOk m
  | .policyDrop m => msgIsVoice m
  | .forward m _ => msgIsVoice m
  | .pulse => true
  | .mapReplace _ _ => true
  | .send _ => true
  | .flush => true
  | .linkPop => true
  | .poll => true
  | .init _ _ => true

end Sys2Proof
end

