-- ==== Sys2Proof/Decode.lean ====
section
/-! DEFINITION. The decoders of the three encoded spaces (spec/30_encoding.md), total on any bytes, and after them the
encoder, written from the same encoding tables. -/

namespace Sys2Proof

open Sys2Proof.Machine

/-! ### Decoding -/

/-- The row of a status byte below `0xF8` that is acted on: steps 3 and 4 of spec/41_parser.md R120. -/
def decodeStatus (b : Byte) : Instr :=
  match b.toNat / 16 with
  | 8 => .noteOffStatus (loNibble b)
  | 9 => .noteOnStatus (loNibble b)
  | 10 => .polyPressureStatus (loNibble b)
  | 11 => .controlChangeStatus (loNibble b)
  | 12 => .programChangeStatus (loNibble b)
  | 13 => .channelPressureStatus (loNibble b)
  | 14 => .pitchBendStatus (loNibble b)
  | _ =>
    match b.toNat % 8 with
    | 0 => .sysexStart
    | 1 => .sysF1
    | 2 => .sysF2
    | 3 => .sysF3
    | 4 => .undefF4
    | 5 => .undefF5
    | 6 => .tuneRequest
    | _ => .strayF7

/-- The row of a real-time byte (spec/30_encoding.md R83). -/
def decodeRealTime (b : Byte) : Instr :=
  match b.toNat % 8 with
  | 0 => .rtF8
  | 1 => .rtF9
  | 2 => .rtFA
  | 3 => .rtFB
  | 4 => .rtFC
  | 5 => .rtFD
  | 6 => .rtFE
  | _ => .rtFF

/-- The row of a data byte outside a system block: the `when` fields of the `DATA` rows (spec/30_encoding.md R100). -/
def decodeData (st : ParserState) (rsValid : Bool) (b : Byte) : Instr :=
  match st with
  | .collectingData1 => .dataFirst (dataValue b)
  | .collectingData2 => .dataSecond (dataValue b)
  | .ignoringSystemBlock => .dataInBlock (dataValue b)
  | .idle => if rsValid then .dataResume (dataValue b) else .dataStray (dataValue b)

/-- The row of a byte `< 0xF8` in a system block (spec/41_parser.md R140). -/
def decodeInBlock (sysexAborts : Bool) (b : Byte) : Instr :=
  if b = 0xF7#8 then .sysexEnd
  else if isStatus b then (if sysexAborts then decodeStatus b else .inBlockStatus (dataValue b))
  else .dataInBlock (dataValue b)

/-- The one row a controller-stream byte selects, in the test order of spec/41_parser.md R120 with the `when` fields of
spec/30_encoding.md R100. Total: R80's partition leaves no byte out. -/
def decodeByte (ctx : DecodeCtx) (b : Byte) : Instr :=
  if isRealTime b then decodeRealTime b
  else if ctx.st = .ignoringSystemBlock then decodeInBlock ctx.sysexAborts b
  else if isStatus b then decodeStatus b
  else decodeData ctx.st ctx.rsValid b

/-- The row a host-bus packet selects: its `cin` (spec/30_encoding.md R91, R92). Total. -/
def decodePacket (p : Packet) : Instr :=
  match (packetCin p).toNat with
  | 0 => .pktCin0 (packetCable p) p.p1 p.p2 p.p3
  | 1 => .pktCin1 (packetCable p) p.p1 p.p2 p.p3
  | 2 => .pktSys2 (packetCable p) p.p1 p.p2 p.p3
  | 3 => .pktSys3 (packetCable p) p.p1 p.p2 p.p3
  | 4 => .pktCin4 (packetCable p) p.p1 p.p2 p.p3
  | 5 => .pktSys1 (packetCable p) p.p1 p.p2 p.p3
  | 6 => .pktCin6 (packetCable p) p.p1 p.p2 p.p3
  | 7 => .pktCin7 (packetCable p) p.p1 p.p2 p.p3
  | 8 => .pktNoteOff (packetCable p) p.p1 p.p2 p.p3
  | 9 => .pktNoteOn (packetCable p) p.p1 p.p2 p.p3
  | 10 => .pktPolyPressure (packetCable p) p.p1 p.p2 p.p3
  | 11 => .pktControlChange (packetCable p) p.p1 p.p2 p.p3
  | 12 => .pktProgramChange (packetCable p) p.p1 p.p2 p.p3
  | 13 => .pktChannelPressure (packetCable p) p.p1 p.p2 p.p3
  | 14 => .pktPitchBend (packetCable p) p.p1 p.p2 p.p3
  | _ => .pktSingleByte (packetCable p) p.p1 p.p2 p.p3

/-- The encoder row a message selects by its status byte (the `ENC` rows, spec/30_encoding.md R100), or why it selects
none. -/
def decodeMessage (m : Message) : Except DecodeError Instr :=
  match m.raw with
  | [] => .error .nullMessage
  | s :: ds =>
    if kindOf s = none then .error (.noKind s)
    else if !msgOk m then .error .notAMessage
    else if isChannelVoice s then .ok (.encChannelVoice m)
    else if isRealTime s then .ok (.encRealTime (s.extractLsb' 0 3))
    else
      match s.toNat % 8, ds with
      | 0, [] => .ok .encSysF0
      | 6, [] => .ok .encSysF6
      | 1, [d] => .ok (.encSysF1 (dataValue d))
      | 3, [d] => .ok (.encSysF3 (dataValue d))
      | 2, [d1, d2] => .ok (.encSysF2 (dataValue d1) (dataValue d2))
      | _, _ => .error .notAMessage

/-- The decoder of a format: the instruction the bytes begin with and the bytes after it, or the name of the rejection.
The encoder's format takes the whole list as one message. -/
def decodeFormat (ctx : DecodeCtx) : Format → List Byte → Except DecodeError (Instr × List Byte)
  | .stream, [] => .error .endOfStream
  | .stream, b :: rest => .ok (decodeByte ctx b, rest)
  | .packet, p0 :: p1 :: p2 :: p3 :: rest => .ok (decodePacket { p0, p1, p2, p3 }, rest)
  | .packet, _ => .error .shortPacket
  | .encoder, bytes =>
    match decodeMessage { raw := bytes } with
    | .ok i => .ok (i, [])
    | .error e => .error e

/-- What the stream decoder reads of the parser right after reset (spec/10_state.md R52): `Idle`, no running status, and
`SYSEX_STATUS_ABORTS` at its default. -/
def decodeCtxReset : DecodeCtx := { st := .idle, rsValid := false, sysexAborts := false }

/-- The table's word as the hardware holds it: 8 bits are one byte of the controller stream, 32 bits a host-bus packet
with `p[0]` in bits 7:0 (spec/20_memory.md R62). A stream byte is read with the parser as reset leaves it; the rows of
format `ENC` share their byte with the `CV`, `SYS` and `RT` rows and `PORT` rows have no bits
(notes/assumptions/14.md). -/
def decodeTableWord (nbits w : Nat) : Option Instr :=
  if nbits = 8 then some (decodeByte decodeCtxReset (BitVec.ofNat 8 w))
  else if nbits = 32 then
    some (decodePacket
      { p0 := BitVec.ofNat 8 w
        p1 := BitVec.ofNat 8 (w / 0x100)
        p2 := BitVec.ofNat 8 (w / 0x10000)
        p3 := BitVec.ofNat 8 (w / 0x1000000) })
  else none

/-! ### Encoding -/

/-- The four bytes of a packet row: `cn` in bits 7:4 of `p[0]`, `cin` in bits 3:0 (spec/30_encoding.md R91). -/
def encodePacketRow (cin cn : Nibble) (p1 p2 p3 : Byte) : Option (Format × List Byte) :=
  some (.packet, [joinNibbles cn cin, p1, p2, p3])

/-- The one byte of a stream row. -/
def encodeStreamRow (b : Byte) : Option (Format × List Byte) := some (.stream, [b])

/-- The bytes of an instruction in its format; `none` for the operations without a bit encoding (R97). -/
def encode : Instr → Option (Format × List Byte)
  | .noteOffStatus ch => encodeStreamRow (joinNibbles 0x8#4 ch)
  | .noteOnStatus ch => encodeStreamRow (joinNibbles 0x9#4 ch)
  | .polyPressureStatus ch => encodeStreamRow (joinNibbles 0xA#4 ch)
  | .controlChangeStatus ch => encodeStreamRow (joinNibbles 0xB#4 ch)
  | .programChangeStatus ch => encodeStreamRow (joinNibbles 0xC#4 ch)
  | .channelPressureStatus ch => encodeStreamRow (joinNibbles 0xD#4 ch)
  | .pitchBendStatus ch => encodeStreamRow (joinNibbles 0xE#4 ch)
  | .sysexStart => encodeStreamRow 0xF0#8
  | .sysF1 => encodeStreamRow 0xF1#8
  | .sysF2 => encodeStreamRow 0xF2#8
  | .sysF3 => encodeStreamRow 0xF3#8
  | .undefF4 => encodeStreamRow 0xF4#8
  | .undefF5 => encodeStreamRow 0xF5#8
  | .tuneRequest => encodeStreamRow 0xF6#8
  | .strayF7 => encodeStreamRow 0xF7#8
  | .sysexEnd => encodeStreamRow 0xF7#8
  | .inBlockStatus low => encodeStreamRow (statusByte low)
  | .rtF8 => encodeStreamRow (realTimeByte 0#3)
  | .rtF9 => encodeStreamRow (realTimeByte 1#3)
  | .rtFA => encodeStreamRow (realTimeByte 2#3)
  | .rtFB => encodeStreamRow (realTimeByte 3#3)
  | .rtFC => encodeStreamRow (realTimeByte 4#3)
  | .rtFD => encodeStreamRow (realTimeByte 5#3)
  | .rtFE => encodeStreamRow (realTimeByte 6#3)
  | .rtFF => encodeStreamRow (realTimeByte 7#3)
  | .dataResume v => encodeStreamRow (dataByte v)
  | .dataFirst v => encodeStreamRow (dataByte v)
  | .dataSecond v => encodeStreamRow (dataByte v)
  | .dataStray v => encodeStreamRow (dataByte v)
  | .dataInBlock v => encodeStreamRow (dataByte v)
  | .pktCin0 cn p1 p2 p3 => encodePacketRow 0x0#4 cn p1 p2 p3
  | .pktCin1 cn p1 p2 p3 => encodePacketRow 0x1#4 cn p1 p2 p3
  | .pktSys2 cn p1 p2 p3 => encodePacketRow 0x2#4 cn p1 p2 p3
  | .pktSys3 cn p1 p2 p3 => encodePacketRow 0x3#4 cn p1 p2 p3
  | .pktCin4 cn p1 p2 p3 => encodePacketRow 0x4#4 cn p1 p2 p3
  | .pktSys1 cn p1 p2 p3 => encodePacketRow 0x5#4 cn p1 p2 p3
  | .pktCin6 cn p1 p2 p3 => encodePacketRow 0x6#4 cn p1 p2 p3
  | .pktCin7 cn p1 p2 p3 => encodePacketRow 0x7#4 cn p1 p2 p3
  | .pktNoteOff cn p1 p2 p3 => encodePacketRow 0x8#4 cn p1 p2 p3
  | .pktNoteOn cn p1 p2 p3 => encodePacketRow 0x9#4 cn p1 p2 p3
  | .pktPolyPressure cn p1 p2 p3 => encodePacketRow 0xA#4 cn p1 p2 p3
  | .pktControlChange cn p1 p2 p3 => encodePacketRow 0xB#4 cn p1 p2 p3
  | .pktProgramChange cn p1 p2 p3 => encodePacketRow 0xC#4 cn p1 p2 p3
  | .pktChannelPressure cn p1 p2 p3 => encodePacketRow 0xD#4 cn p1 p2 p3
  | .pktPitchBend cn p1 p2 p3 => encodePacketRow 0xE#4 cn p1 p2 p3
  | .pktSingleByte cn p1 p2 p3 => encodePacketRow 0xF#4 cn p1 p2 p3
  | .encChannelVoice m => some (.encoder, m.raw)
  | .encRealTime r => some (.encoder, [realTimeByte r])
  | .encSysF0 => some (.encoder, [0xF0#8])
  | .encSysF6 => some (.encoder, [0xF6#8])
  | .encSysF1 d => some (.encoder, [0xF1#8, dataByte d])
  | .encSysF3 d => some (.encoder, [0xF3#8, dataByte d])
  | .encSysF2 d1 d2 => some (.encoder, [0xF2#8, dataByte d1, dataByte d2])
  | .push _ => none
  | .pop => none
  | .drain => none
  | .parse _ => none
  | .deliver _ => none
  | .mbxTake => none
  | .decode _ => none
  | .encode _ => none
  | .onParserMessage _ => none
  | .mirror _ => none
  | .route _ => none
  | .onHostMessage _ => none
  | .policyDrop _ => none
  | .forward _ _ => none
  | .pulse => none
  | .mapReplace _ _ => none
  | .send _ => none
  | .flush => none
  | .linkPop => none
  | .poll => none
  | .init _ _ => none

/-- The parser contexts in which a stream row is the one its byte selects: the table's `when` fields (R100). True for a
row of another format. -/
def rowSelected (ctx : DecodeCtx) : Instr → Bool
  | .noteOffStatus _ | .noteOnStatus _ | .polyPressureStatus _ | .controlChangeStatus _ | .programChangeStatus _
  | .channelPressureStatus _ | .pitchBendStatus _ | .sysexStart | .sysF1 | .sysF2 | .sysF3 | .undefF4 | .undefF5
  | .tuneRequest => decide (ctx.st ≠ .ignoringSystemBlock) || ctx.sysexAborts
  | .strayF7 => decide (ctx.st ≠ .ignoringSystemBlock)
  | .sysexEnd => decide (ctx.st = .ignoringSystemBlock)
  | .inBlockStatus _ => decide (ctx.st = .ignoringSystemBlock) && !ctx.sysexAborts
  | .dataResume _ => decide (ctx.st = .idle) && ctx.rsValid
  | .dataFirst _ => decide (ctx.st = .collectingData1)
  | .dataSecond _ => decide (ctx.st = .collectingData2)
  | .dataStray _ => decide (ctx.st = .idle) && !ctx.rsValid
  | .dataInBlock _ => decide (ctx.st = .ignoringSystemBlock)
  | .rtF8 | .rtF9 | .rtFA | .rtFB | .rtFC | .rtFD | .rtFE | .rtFF => true
  | .pktCin0 _ _ _ _ | .pktCin1 _ _ _ _ | .pktSys2 _ _ _ _ | .pktSys3 _ _ _ _ | .pktCin4 _ _ _ _ | .pktSys1 _ _ _ _
  | .pktCin6 _ _ _ _ | .pktCin7 _ _ _ _ | .pktNoteOff _ _ _ _ | .pktNoteOn _ _ _ _ | .pktPolyPressure _ _ _ _
  | .pktControlChange _ _ _ _ | .pktProgramChange _ _ _ _ | .pktChannelPressure _ _ _ _ | .pktPitchBend _ _ _ _
  | .pktSingleByte _ _ _ _ => true
  | .encChannelVoice _ | .encRealTime _ | .encSysF0 | .encSysF6 | .encSysF1 _ | .encSysF3 _ | .encSysF2 _ _ => true
  | .push _ | .pop | .drain | .parse _ | .deliver _ | .mbxTake | .decode _ | .encode _ | .onParserMessage _ | .mirror _
  | .route _ | .onHostMessage _ | .policyDrop _ | .forward _ _ | .pulse | .mapReplace _ _ | .send _ | .flush | .linkPop
  | .poll | .init _ _ => true

end Sys2Proof
end

