-- ==== Sys2Proof/Machine/State.lean ====
section
/-! DEFINITION. The state of the block as plain data (spec/10_state.md R20 to R46), the state after reset (R52), and the
reasons a step can stop. INVENTORY.md lists every field with its rule and its reset value. -/

namespace Sys2Proof.Machine

open Sys2Proof

/-- A byte storage: (index, byte) pairs, indices strictly rising, no pair holding what an unlisted index reads as. -/
abbrev Memory := List Host.Cell

/-- What a cell of `rb_mem` that is not listed reads as. DESIGN CHOICE (notes/assumptions/2.md): the spec gives no reset
value and says it is never observed (spec/10_state.md R21). -/
def ringBlank : Byte := 0#8

/-- The ring buffer (R21 to R24). -/
structure Ring where
  /-- `rb_mem` -/
  mem : Memory
  /-- `rb_wr` -/
  wr : Nat
  /-- `rb_rd` -/
  rd : Nat
  /-- `rb_overflow_count` -/
  overflow : Count
deriving DecidableEq, Repr

/-- The parser (R26 to R28). -/
structure Parser where
  /-- `ps_state` -/
  st : ParserState
  /-- `rs_valid` -/
  rsValid : Bool
  /-- `rs_status` -/
  rsStatus : Byte
  /-- `acc_raw[0..2]` -/
  accRaw : Vector Byte 3
  /-- `acc_len` -/
  accLen : Nat
  /-- `acc_need` -/
  accNeed : Nat
deriving DecidableEq, Repr

/-- The mailbox (R29). -/
structure Mailbox where
  /-- `mbx_full` -/
  full : Bool
  /-- `mbx_msg` -/
  msg : Message
deriving DecidableEq, Repr

/-- The Channel Map: `cm_map` and `cm_enable` form one value (R34 to R36). -/
structure ChannelMap where
  /-- `cm_map[0..15]` -/
  map : Vector Byte 16
  /-- `cm_enable[0..N_INT-1]` -/
  enable : Vector Bool nInt
deriving DecidableEq, Repr

/-- The transmit pacing state and the hardware queue (R38 to R41). -/
structure Link where
  /-- `lt_last_us` -/
  lastUs : Time
  /-- `lt_last_valid` -/
  lastValid : Bool
  /-- `lt_min_gap_us` -/
  minGapUs : Time
  /-- `lt_byte_count` -/
  byteCount : Count
  /-- `hwq`, front first -/
  hwq : List Byte
deriving DecidableEq, Repr

/-- `seq_phase` (R43). -/
inductive Phase where
  | ring | host
deriving DecidableEq, Repr

/-- A call on the poll context that takes more than one step or waits (notes/assumptions/8.md). -/
inductive Call where
  | drain
  | mbxTake
  | flush
  | send (b : Byte)
deriving DecidableEq, Repr

/-- The poll sequencer (R42, R43). `calls` and `flushT0` are the model's own (notes/assumptions/8.md): the calls clients
have made on `A_POLL` that have not returned, oldest first, and the instant `t0` of a `FLUSH` in its settle margin. -/
structure Sequencer where
  /-- `tx_pend`, front first -/
  txPend : List Byte
  /-- `seq_phase` -/
  phase : Phase
  calls : List Call
  flushT0 : Option Time
deriving DecidableEq, Repr

/-- The underlying transports `INIT` acquires (spec/70_reset_and_hazards.md R302, R303). -/
inductive Transport where
  | serialReceiver | hostBusStack | linkPrimitive
deriving DecidableEq, Repr

/-- The events (spec/60_exceptions.md R260), with the recorded value of each. Their codes and classes are `Event.code` and
`Event.eventClass` (Machine/Flags.lean). -/
inductive Event where
  | ringOverflow (b : Byte)
  | mailboxOverwrite (m : Message)
  | hostNotReady (m : Message)
  | strayData (b : Byte)
  | sysexDiscard (b : Byte)
  | partialAbandoned (status : Byte)
  | undefinedStatus (b : Byte)
  | policyDrop (m : Message)
  | packetNull (p : Packet)
  /-- the recorded value is which transport could not be acquired (notes/assumptions/18.md) -/
  | initFailure (which : Transport)
deriving DecidableEq, Repr

/-- The class of an event: the taxonomy of spec/60_exceptions.md R260. -/
inductive EventClass where
  | transientDataLoss | malformedInput | policyDrop | initializationFailure
deriving DecidableEq, Repr

/-- What the last port that answers has answered. The model's own latch (notes/assumptions/10.md). -/
inductive Response where
  | none
  /-- the result of `POP` (spec/40_ring_buffer.md R112) -/
  | popped (b : Option Byte)
  /-- the result of `MBX_TAKE` (spec/41_parser.md R152) -/
  | mailbox (m : Option Message)
  /-- the result of `DECODE` (spec/42_codec.md R171) -/
  | decoded (m : Message)
  /-- the result of `ENCODE` (spec/42_codec.md R191) -/
  | encoded (p : Packet)
  /-- the done response of `FLUSH` (spec/20_memory.md R61) -/
  | flushed
deriving DecidableEq, Repr

/-- One coming turn: which agent takes the next step, with what the environment gives it (spec/45_poll_loop.md R244,
R245; notes/assumptions/5.md). -/
inductive Turn where
  /-- `A_POLL` takes the step that is enabled -/
  | poll
  /-- the serial line delivers its next byte to `A_RX` -/
  | rx
  /-- an operation is strobed -/
  | run (i : Instr)
  /-- `A_CFG` runs `INIT` with the environment's `transport_ok` -/
  | init (gap : Option Time)
  /-- `now` advances -/
  | advance (d : Time)
  /-- a host packet arrives -/
  | hostArrive (p : Packet)
  /-- `host_ready` takes a value -/
  | hostReady (v : Bool)
  /-- the controller sends one more byte -/
  | serialArrive (b : Byte)
  /-- `transport_ok` takes a value -/
  | transportOk (v : Bool)
  /-- which transport cannot be acquired, while `transport_ok` is 0 -/
  | transportFailed (which : Transport)
deriving DecidableEq, Repr

/-- What the environment owns and the block reads (R45, R46), with the turns to come. `failedTransport` is the model's own
(notes/assumptions/18.md): which transport is not acquired when `transport_ok` is 0. -/
structure Environment where
  now : Time
  serialIn : List Byte
  hostIn : List Packet
  hostReady : Bool
  transportOk : Bool
  failedTransport : Transport
  sched : List Turn
deriving DecidableEq, Repr

/-- What the block is observed by (R46): the three output traces, and the model's logs of the events (R260, R284), of the
enqueue instants with their bytes (R46, spec/44_link_tx.md R222) and of the last port response. -/
structure Outputs where
  hostOut : List Packet
  linkOut : List Byte
  pulseOut : Nat
  events : List Event
  sent : List (Time × Byte)
  resp : Response
deriving DecidableEq, Repr

/-- The whole state (R20). -/
structure State where
  config : Config
  ring : Ring
  parser : Parser
  mbx : Mailbox
  chmap : ChannelMap
  /-- `rt_drop_count` (R37) -/
  rtDrop : Count
  link : Link
  seq : Sequencer
  /-- `active` (R44) -/
  active : Bool
  /-- `init_fail` (R44) -/
  initFail : Bool
  env : Environment
  out : Outputs
deriving DecidableEq, Repr

/-- Why the machine stops. The block itself has no traps (spec/60_exceptions.md). -/
inductive Fault where
  /-- Raised by a turn of the environment that would advance `now` past its 64 bits, which spec/10_state.md R45 and D20
  exclude (notes/assumptions/15.md). Safe: the model stops where the spec allows no step. -/
  | timeBaseEnd
deriving DecidableEq, Repr

/-- Why an instruction has no meaning in a state. -/
inductive Refusal where
  /-- Raised by `exec` for an instruction not modelled yet; no arm does. Safe. -/
  | notModelled (mnemonic : String)
  /-- Raised by `ENCODE` given the null message, which the spec leaves undefined and has a model refuse (spec/42_codec.md
  R191, D33, U24). Safe. -/
  | encodeNull
  /-- Raised by an operation on a Message given a record that is no Message of `length >= 1` (spec/10_state.md R30); the
  parser and the decoder never produce one (notes/assumptions/16.md). Safe. -/
  | notAMessage
  /-- Raised by `FORWARD`, `POLICY_DROP` and the channel-voice encoder row given a Message that is not channel-voice,
  which they are never applied to (spec/43_router.md R202, R204, R207; notes/assumptions/16.md). Safe. -/
  | notChannelVoice
deriving DecidableEq, Repr

/-- The default Channel Map (R52): channels 0 to 4 to ids 0 to 4, the rest disabled, every id enabled. -/
def chmapDefault : ChannelMap :=
  { map := #v[0x00#8, 0x01#8, 0x02#8, 0x03#8, 0x04#8, mapDisabled, mapDisabled, mapDisabled,
              mapDisabled, mapDisabled, mapDisabled, mapDisabled, mapDisabled, mapDisabled, mapDisabled, mapDisabled]
    enable := #v[true, true, true, true, true] }

/-- The state after reset, for any values of the OPEN parameters (R52, spec/70_reset_and_hazards.md R300, R301). Values
R52 leaves unspecified are named in notes/assumptions/2.md to 4.md. -/
def State.resetWith (c : Config) : State :=
  { config := c
    ring := { mem := [], wr := 0, rd := 0, overflow := 0#32 }
    parser := { st := .idle, rsValid := false, rsStatus := 0#8, accRaw := #v[0#8, 0#8, 0#8], accLen := 0, accNeed := 0 }
    mbx := { full := false, msg := { raw := [] } }
    chmap := chmapDefault
    rtDrop := 0#32
    link := { lastUs := 0#64, lastValid := false, minGapUs := minGapDefault, byteCount := 0#32, hwq := [] }
    seq := { txPend := [], phase := .ring, calls := [], flushT0 := none }
    active := false
    initFail := false
    env :=
      { now := 0#64, serialIn := [], hostIn := [], hostReady := false, transportOk := false
        failedTransport := .serialReceiver, sched := [] }
    out := { hostOut := [], linkOut := [], pulseOut := 0, events := [], sent := [], resp := .none } }

/-- The state after reset, with the parameters of `Config.vectors` (notes/assumptions/1.md). -/
def State.reset : State := State.resetWith Config.vectors

end Sys2Proof.Machine
end

