-- ==== Sys2Proof/Machine/Flags.lean ====
section
/-! DEFINITION. The derived quantities and one-bit conditions of the spec, as functions of the state: they are not stored
(spec/10_state.md R25, R41, R48). And the codes and classes of the events (spec/60_exceptions.md R260). -/

namespace Sys2Proof.Machine

open Sys2Proof

/-- `RB_CAP = 2^k` (spec/00_scope.md R7). -/
def ringCap (s : State) : Nat := 2 ^ s.config.rbLog

/-- The index after `x`: `(x + 1) mod RB_CAP` (spec/40_ring_buffer.md R114). -/
def ringNext (s : State) (x : Nat) : Nat := (x + 1) % ringCap s

/-- `rb_count = (rb_wr - rb_rd) mod RB_CAP` (R25). The modulus is added first, since Nat subtraction does not wrap. -/
def ringCount (s : State) : Nat := (s.ring.wr + ringCap s - s.ring.rd) % ringCap s

/-- `rb_empty` (R25). -/
def ringEmpty (s : State) : Bool := s.ring.wr == s.ring.rd

/-- `rb_full` (R25). -/
def ringFull (s : State) : Bool := ringNext s s.ring.wr == s.ring.rd

/-- `hwq_depth` (R41). -/
def hwqLength (s : State) : Nat := s.link.hwq.length

/-- `hwq_full` (R41). -/
def hwqFull (s : State) : Bool := s.link.hwq.length == s.config.hwqDepth

/-- `hwq_empty` (R41). -/
def hwqEmpty (s : State) : Bool := s.link.hwq.isEmpty

/-- `host_avail`: "is one available" (spec/45_poll_loop.md R241). -/
def hostAvail (s : State) : Bool := !s.env.hostIn.isEmpty

/-- The gap condition of `SEND` (spec/44_link_tx.md R220): no byte sent yet, or `now - lt_last_us >= lt_min_gap_us`,
an unsigned subtraction in 64 bits (R228). -/
def gapElapsed (s : State) : Bool := !s.link.lastValid || decide (s.link.minGapUs ≤ s.env.now - s.link.lastUs)

/-- The wait condition of `SEND` (R220): the gap has elapsed and `len(hwq) < HWQ_DEPTH`. -/
def sendReady (s : State) : Bool := gapElapsed s && decide (s.link.hwq.length < s.config.hwqDepth)

/-- The wait condition of a `FLUSH` that saw the queue empty at `t0`: `now - t0 >= SETTLE_US` (R224), the difference as
R228 takes it and the margin of no width (notes/assumptions/1.md). -/
def settled (s : State) (t0 : Time) : Bool := decide (s.config.settleUs ≤ (s.env.now - t0).toNat)

/-- `A_POLL` may begin a new step: the data path is active (spec/70_reset_and_hazards.md R304), no forwarded byte waits
for its `SEND` (spec/45_poll_loop.md R243), and no client's call is unfinished (spec/44_link_tx.md R221, R244). -/
def pollFree (s : State) : Bool := s.active && s.seq.txPend.isEmpty && s.seq.calls.isEmpty

/-- What the stream decoder reads of the state. -/
def decodeCtx (s : State) : DecodeCtx :=
  { st := s.parser.st, rsValid := s.parser.rsValid, sysexAborts := s.config.sysexAborts }

/-- The bytes the ring holds, oldest first: `rb_mem[(rb_rd + i) mod RB_CAP]` for `i = 0 .. rb_count - 1` (R25) are at
these indices. -/
def ringHeldIndices (s : State) : List Nat := (List.range (ringCount s)).map (fun i => (s.ring.rd + i) % ringCap s)

/-! ### The events' codes and classes (spec/60_exceptions.md R260) -/

/-- The code of an event, 1 to 10: the spec's identifiers for a model (R260, D28). -/
def Event.code : Event → Nat
  | .ringOverflow _ => 1
  | .mailboxOverwrite _ => 2
  | .hostNotReady _ => 3
  | .strayData _ => 4
  | .sysexDiscard _ => 5
  | .partialAbandoned _ => 6
  | .undefinedStatus _ => 7
  | .policyDrop _ => 8
  | .packetNull _ => 9
  | .initFailure _ => 10

/-- The class of an event (R260). -/
def Event.eventClass : Event → EventClass
  | .ringOverflow _ | .mailboxOverwrite _ | .hostNotReady _ => .transientDataLoss
  | .strayData _ | .sysexDiscard _ | .partialAbandoned _ | .undefinedStatus _ | .packetNull _ => .malformedInput
  | .policyDrop _ => .policyDrop
  | .initFailure _ => .initializationFailure

end Sys2Proof.Machine
end

