-- ==== Sys2Proof/Machine/Ops.lean ====
section
/-! DEFINITION. The named operations over the storage and the state: reading and writing `rb_mem`, recording an event,
answering on a port, and the gates an operation of the poll context passes. -/

namespace Sys2Proof.Machine

open Sys2Proof

/-! ### The byte storage -/

/-- The byte at an index; an unlisted index reads as `ringBlank`. -/
def Memory.read : Memory → Nat → Byte
  | [], _ => ringBlank
  | c :: rest, a => if c.1 = a then c.2 else Memory.read rest a

/-- The storage with one byte changed, in canonical form: writing what an unlisted index reads as removes the entry. -/
def Memory.write : Memory → Nat → Byte → Memory
  | [], a, v => if v = ringBlank then [] else [(a, v)]
  | c :: rest, a, v =>
    if a < c.1 then (if v = ringBlank then c :: rest else (a, v) :: c :: rest)
    else if a = c.1 then (if v = ringBlank then rest else (a, v) :: rest)
    else c :: Memory.write rest a v

/-- The canonical form: indices strictly rising, and no entry equal to what an unlisted index reads as. -/
abbrev Memory.wf (m : Memory) : Prop := m.Pairwise (fun c d => c.1 < d.1) ∧ ∀ c ∈ m, c.2 ≠ ringBlank

/-- The index of `rb_mem` an index register selects: its `log2(RB_CAP)` bits (spec/20_memory.md R60;
notes/assumptions/20.md). -/
def ringIndex (s : State) (x : Nat) : Nat := x % ringCap s

/-- `rb_mem[x]`. -/
def ringRead (s : State) (x : Nat) : Byte := s.ring.mem.read (ringIndex s x)

/-- `rb_mem[x] <- b`. -/
def ringWrite (s : State) (x : Nat) (b : Byte) : State :=
  { s with ring := { s.ring with mem := s.ring.mem.write (ringIndex s x) b } }

/-- The bytes the ring holds, oldest first (spec/10_state.md R25). -/
def ringHeld (s : State) : List Byte := (ringHeldIndices s).map (fun i => s.ring.mem.read i)

/-! ### Events and responses

The block has no trap: `raise` records the event, and control goes on (spec/00_scope.md R9, spec/60_exceptions.md R260).
This is the one operation every abnormal condition goes through; there is no entry, no saved state and no return. -/

/-- `raise e` (R9): record the event; no control transfer, nothing saved. -/
def raise (e : Event) (s : State) : State := { s with out := { s.out with events := s.out.events ++ [e] } }

/-- Latch a port's answer (notes/assumptions/10.md). -/
def respond (r : Response) (s : State) : State := { s with out := { s.out with resp := r } }

/-! ### The receive interrupt, the one event of the block that transfers control (spec/60_exceptions.md section 2) -/

/-- `PUSH(b)` (spec/40_ring_buffer.md R110): store the byte and advance the write index, or count and drop it when the ring is full. -/
def ringPush (b : Byte) (s : State) : State :=
  if ringFull s then
    raise (.ringOverflow b) { s with ring := { s.ring with overflow := s.ring.overflow + 1#32 } }
  else
    { s with ring := { s.ring with mem := s.ring.mem.write (ringIndex s s.ring.wr) b, wr := ringNext s s.ring.wr } }

/-- The receive interrupt (spec/60_exceptions.md R275 to R279): the handler's whole work is one `PUSH`; nothing is saved
on entry and nothing restored on return. It is enabled while the data path is active (R276, spec/45_poll_loop.md R245):
a byte that arrives otherwise is not pushed (notes/assumptions/9.md). -/
def receiveInterrupt (b : Byte) (s : State) : State := if s.active then ringPush b s else s

/-! ### The gates -/

/-- An operation of `A_POLL`. It takes effect when the poll context may begin a step; otherwise `A_POLL` has no such step
and nothing happens (spec/45_poll_loop.md R243, R244, spec/70_reset_and_hazards.md R304; notes/assumptions/7.md). -/
def onPoll (op : State → State) (s : State) : Host.Outcome State Fault Refusal :=
  if pollFree s then .next (op s) else .next s

/-- An operation of `A_POLL` on a Message: it is refused when the operand is no Message of `length >= 1`
(spec/10_state.md R30; notes/assumptions/16.md). -/
def onMessage (m : Message) (op : State → State) (s : State) : Host.Outcome State Fault Refusal :=
  if msgOk m then onPoll op s else .refused .notAMessage

/-- An operation of `A_POLL` on a channel-voice Message (spec/43_router.md R207; notes/assumptions/16.md). -/
def onVoiceMessage (m : Message) (op : State → State) (s : State) : Host.Outcome State Fault Refusal :=
  if msgIsVoice m then onPoll op s else .refused .notChannelVoice

end Sys2Proof.Machine
end

