-- ==== Sys2Proof/Machine/Codec.lean ====
section
/-! DEFINITION. The Packet Codec (spec/42_codec.md): two pure functions and the `ENC`, `DECODE` and `ENCODE` rows. The
`PKT` rows, which also route what they decode, are in Machine/HostPackets.lean. -/

namespace Sys2Proof.Machine

open Sys2Proof

/-! ### The pure functions (R170) -/

/-- `p[1 .. n]`, the payload bytes a count of `n` selects. -/
def packetPayload (n : Nat) (p : Packet) : List Byte := [p.p1, p.p2, p.p3].take n

/-- `VALID(s, n, p)` (R173). -/
def packetValid (n : Nat) (p : Packet) : Bool :=
  isStatus p.p1 && lenOf p.p1 == some n && (decide (n < 2) || decide (p.p2 < 0x80#8)) &&
    (decide (n < 3) || decide (p.p3 < 0x80#8))

/-- `DECODE` once the code has selected a byte count `n`; 0 stands for an unrecognised code (R171). -/
def decodeCounted (n : Nat) (p : Packet) : Message :=
  if n = 0 then nullMessage
  else if packetValid n p then { raw := packetPayload n p }
  else nullMessage

/-- `DECODE(p)` (R171): the message, or the null message. It does not normalise (R174). -/
def decodeMsg (p : Packet) : Message := decodeCounted (cinLen (packetCin p)) p

/-- The code `ENCODE` gives a message: `cin_of` of its kind (R191). 0 where it has no kind, which is never requested. -/
def encodeCin (m : Message) : Nibble :=
  match msgKind m with
  | some k => cinOf k
  | none => 0#4

/-- The four bytes of `ENCODE`, for a given code (R191): the raw bytes, zero-padded. -/
def encodeWith (cin : Nibble) (m : Message) : Packet :=
  { p0 := joinNibbles cable cin
    p1 := m.raw.getD 0 0#8
    p2 := m.raw.getD 1 0#8
    p3 := m.raw.getD 2 0#8 }

/-- `ENCODE(m)` (R191). -/
def encodeMsg (m : Message) : Packet := encodeWith (encodeCin m) m

/-! ### The operations as instructions -/

/-- Record `PacketNull` when the decoder's result is null (R171, spec/60_exceptions.md R269). -/
def notePacket (p : Packet) (m : Message) (s : State) : State :=
  if m = nullMessage then raise (.packetNull p) s else s

/-- `DECODE` (R171): the result on the response latch, with the event when it is null. -/
def execDecode (p : Packet) (s : State) : Host.Outcome State Fault Refusal :=
  onPoll (fun s => respond (.decoded (decodeMsg p)) (notePacket p (decodeMsg p) s)) s

/-- `ENCODE` (R191); the null message is refused (D33). -/
def execEncode (m : Message) (s : State) : Host.Outcome State Fault Refusal :=
  if m = nullMessage then .refused .encodeNull else onMessage m (respond (.encoded (encodeMsg m))) s

/-- `ENCODE` of a channel-voice message: the code is the upper nibble of `raw[0]` (R192). -/
def execEncChannelVoice (m : Message) (s : State) : Host.Outcome State Fault Refusal :=
  onVoiceMessage m (respond (.encoded (encodeWith (hiNibble (msgStatus m)) m))) s

/-- `ENCODE` of a real-time message: code `0xF` (R193). -/
def execEncRealTime (r : BitVec 3) (s : State) : Host.Outcome State Fault Refusal :=
  onPoll (respond (.encoded (encodeWith 0xF#4 { raw := [realTimeByte r] }))) s

/-- `ENCODE` of `sys-F0`: code `0x5` (R194). -/
def execEncSysF0 (s : State) : Host.Outcome State Fault Refusal :=
  onPoll (respond (.encoded (encodeWith 0x5#4 { raw := [0xF0#8] }))) s

/-- `ENCODE` of `sys-F6`: code `0x5` (R194). -/
def execEncSysF6 (s : State) : Host.Outcome State Fault Refusal :=
  onPoll (respond (.encoded (encodeWith 0x5#4 { raw := [0xF6#8] }))) s

/-- `ENCODE` of `sys-F1`: code `0x2` (R195). -/
def execEncSysF1 (d : Data7) (s : State) : Host.Outcome State Fault Refusal :=
  onPoll (respond (.encoded (encodeWith 0x2#4 { raw := [0xF1#8, dataByte d] }))) s

/-- `ENCODE` of `sys-F3`: code `0x2` (R195). -/
def execEncSysF3 (d : Data7) (s : State) : Host.Outcome State Fault Refusal :=
  onPoll (respond (.encoded (encodeWith 0x2#4 { raw := [0xF3#8, dataByte d] }))) s

/-- `ENCODE` of `sys-F2`: code `0x3` (R196). -/
def execEncSysF2 (d1 d2 : Data7) (s : State) : Host.Outcome State Fault Refusal :=
  onPoll (respond (.encoded (encodeWith 0x3#4 { raw := [0xF2#8, dataByte d1, dataByte d2] }))) s

end Sys2Proof.Machine
end

