-- ==== Sys2Proof/Machine/Router.lean ====
section
/-! DEFINITION. The Channel Router (spec/43_router.md): mirroring, routing, forwarding, the drop counter, the pulse, and
the replacement of the Channel Map. -/

namespace Sys2Proof.Machine

open Sys2Proof

/-! ### The operations -/

/-- `MIRROR(m)` (R201): one packet to the host-bus sink, or the event when no session is established. -/
def mirror (m : Message) (s : State) : State :=
  if s.env.hostReady then { s with out := { s.out with hostOut := s.out.hostOut ++ [encodeMsg m] } }
  else raise (.hostNotReady m) s

/-- `POLICY_DROP(m)` (R204): the drop counter is the one side effect. -/
def policyDrop (m : Message) (s : State) : State := raise (.policyDrop m) { s with rtDrop := s.rtDrop + 1#32 }

/-- The status byte on the link: the low nibble is the internal-channel id (R205, spec/30_encoding.md R94). -/
def forwardStatus (status : Byte) (e : Fin nInt) : Byte := (status &&& 0xF0#8) ||| BitVec.ofNat 8 e.val

/-- The bytes `FORWARD` hands to the transmitter (R205). -/
def forwardBytes (m : Message) (e : Fin nInt) : List Byte := forwardStatus (msgStatus m) e :: m.raw.drop 1

/-- `FORWARD(m, e)` (R205): load `tx_pend`. -/
def forward (m : Message) (e : Fin nInt) (s : State) : State :=
  { s with seq := { s.seq with txPend := forwardBytes m e } }

/-- The Channel Map entry of a message: `cm_map[m.channel]` (R202). -/
def mapEntry (m : Message) (s : State) : Byte := s.chmap.map[(loNibble (msgStatus m)).toNat]

/-- The enabled internal-channel id of a message, if it has one: an entry `< N_INT` whose enable flag is 1 (R202). -/
def mapTarget (m : Message) (s : State) : Option (Fin nInt) :=
  if h : (mapEntry m s).toNat < nInt then
    if s.chmap.enable[(mapEntry m s).toNat] then some ⟨(mapEntry m s).toNat, h⟩ else none
  else none

/-- `ROUTE(m)` (R202, R207). -/
def route (m : Message) (s : State) : State :=
  if isChannelVoice (msgStatus m) then
    match mapTarget m s with
    | some e => forward m e s
    | none => policyDrop m s
  else s

/-- `ON_PARSER_MESSAGE(m)` (R200): mirror first, then route. -/
def onParserMessage (m : Message) (s : State) : State := route m (mirror m s)

/-- `ON_HOST_MESSAGE(m)` (R203): route only. -/
def onHostMessage (m : Message) (s : State) : State := route m s

/-- `PULSE` (R206). -/
def pulse (s : State) : State := { s with out := { s.out with pulseOut := s.out.pulseOut + 1 } }

/-! ### The operations as instructions -/

/-- `ON_PARSER_MESSAGE` (R200). -/
def execOnParserMessage (m : Message) (s : State) : Host.Outcome State Fault Refusal := onMessage m (onParserMessage m) s

/-- `MIRROR` (R201). -/
def execMirror (m : Message) (s : State) : Host.Outcome State Fault Refusal := onMessage m (mirror m) s

/-- `ROUTE` (R202). -/
def execRoute (m : Message) (s : State) : Host.Outcome State Fault Refusal := onMessage m (route m) s

/-- `ON_HOST_MESSAGE` (R203). -/
def execOnHostMessage (m : Message) (s : State) : Host.Outcome State Fault Refusal := onMessage m (onHostMessage m) s

/-- `POLICY_DROP` (R204). -/
def execPolicyDrop (m : Message) (s : State) : Host.Outcome State Fault Refusal := onVoiceMessage m (policyDrop m) s

/-- `FORWARD` (R205). -/
def execForward (m : Message) (e : Fin nInt) (s : State) : Host.Outcome State Fault Refusal := onVoiceMessage m (forward m e) s

/-- `PULSE` (R206). -/
def execPulse (s : State) : Host.Outcome State Fault Refusal := onPoll pulse s

/-- `MAP_REPLACE` (R208): one atomic swap, at any time, `active` or not. -/
def execMapReplace (map : Vector Byte 16) (enable : Vector Bool nInt) (s : State) : Host.Outcome State Fault Refusal :=
  .next { s with chmap := { map := map, enable := enable } }

end Sys2Proof.Machine
end

