-- ==== Sys2Proof/Machine/HostPackets.lean ====
section
/-! DEFINITION. The `PKT` rows: a packet of the host stream is decoded by its `cin` and, if not null, routed
(spec/42_codec.md R175 to R190, spec/45_poll_loop.md R241, R244; notes/assumptions/13.md). -/

namespace Sys2Proof.Machine

open Sys2Proof

/-- What `HOST_STEP` does with the message of a packet it has read (R241): a null message is discarded, another is
routed. -/
def hostMessage (p : Packet) (m : Message) (s : State) : State :=
  if m = nullMessage then raise (.packetNull p) s else onHostMessage m s

/-- `HOST_STEP` after the read: `DECODE`, then `ROUTE` if not null (R244). -/
def hostPacket (p : Packet) (s : State) : State := hostMessage p (decodeMsg p) s

/-- A packet whose code is not recognised: `DECODE` returns null whatever the payload (R172). -/
def nullRow (cin cn : Nibble) (p1 p2 p3 : Byte) (s : State) : Host.Outcome State Fault Refusal :=
  onPoll (raise (.packetNull { p0 := joinNibbles cn cin, p1, p2, p3 })) s

/-- A packet whose code selects `n` bytes (R171). -/
def packetRow (cin : Nibble) (n : Nat) (cn : Nibble) (p1 p2 p3 : Byte) (s : State) : Host.Outcome State Fault Refusal :=
  onPoll (hostMessage { p0 := joinNibbles cn cin, p1, p2, p3 }
    (decodeCounted n { p0 := joinNibbles cn cin, p1, p2, p3 })) s

/-- `cin` 0x0 (R175). -/
def execPktCin0 (cn : Nibble) (p1 p2 p3 : Byte) (s : State) : Host.Outcome State Fault Refusal := nullRow 0x0#4 cn p1 p2 p3 s

/-- `cin` 0x1 (R176). -/
def execPktCin1 (cn : Nibble) (p1 p2 p3 : Byte) (s : State) : Host.Outcome State Fault Refusal := nullRow 0x1#4 cn p1 p2 p3 s

/-- `cin` 0x2, two bytes (R177). -/
def execPktSys2 (cn : Nibble) (p1 p2 p3 : Byte) (s : State) : Host.Outcome State Fault Refusal := packetRow 0x2#4 2 cn p1 p2 p3 s

/-- `cin` 0x3, three bytes (R178). -/
def execPktSys3 (cn : Nibble) (p1 p2 p3 : Byte) (s : State) : Host.Outcome State Fault Refusal := packetRow 0x3#4 3 cn p1 p2 p3 s

/-- `cin` 0x4 (R179). -/
def execPktCin4 (cn : Nibble) (p1 p2 p3 : Byte) (s : State) : Host.Outcome State Fault Refusal := nullRow 0x4#4 cn p1 p2 p3 s

/-- `cin` 0x5, one byte (R180). -/
def execPktSys1 (cn : Nibble) (p1 p2 p3 : Byte) (s : State) : Host.Outcome State Fault Refusal := packetRow 0x5#4 1 cn p1 p2 p3 s

/-- `cin` 0x6 (R181). -/
def execPktCin6 (cn : Nibble) (p1 p2 p3 : Byte) (s : State) : Host.Outcome State Fault Refusal := nullRow 0x6#4 cn p1 p2 p3 s

/-- `cin` 0x7 (R182). -/
def execPktCin7 (cn : Nibble) (p1 p2 p3 : Byte) (s : State) : Host.Outcome State Fault Refusal := nullRow 0x7#4 cn p1 p2 p3 s

/-- `cin` 0x8, three bytes (R183). -/
def execPktNoteOff (cn : Nibble) (p1 p2 p3 : Byte) (s : State) : Host.Outcome State Fault Refusal := packetRow 0x8#4 3 cn p1 p2 p3 s

/-- `cin` 0x9, three bytes (R184). -/
def execPktNoteOn (cn : Nibble) (p1 p2 p3 : Byte) (s : State) : Host.Outcome State Fault Refusal := packetRow 0x9#4 3 cn p1 p2 p3 s

/-- `cin` 0xA, three bytes (R185). -/
def execPktPolyPressure (cn : Nibble) (p1 p2 p3 : Byte) (s : State) : Host.Outcome State Fault Refusal := packetRow 0xA#4 3 cn p1 p2 p3 s

/-- `cin` 0xB, three bytes (R186). -/
def execPktControlChange (cn : Nibble) (p1 p2 p3 : Byte) (s : State) : Host.Outcome State Fault Refusal := packetRow 0xB#4 3 cn p1 p2 p3 s

/-- `cin` 0xC, two bytes (R187). -/
def execPktProgramChange (cn : Nibble) (p1 p2 p3 : Byte) (s : State) : Host.Outcome State Fault Refusal := packetRow 0xC#4 2 cn p1 p2 p3 s

/-- `cin` 0xD, two bytes (R188). -/
def execPktChannelPressure (cn : Nibble) (p1 p2 p3 : Byte) (s : State) : Host.Outcome State Fault Refusal := packetRow 0xD#4 2 cn p1 p2 p3 s

/-- `cin` 0xE, three bytes (R189). -/
def execPktPitchBend (cn : Nibble) (p1 p2 p3 : Byte) (s : State) : Host.Outcome State Fault Refusal := packetRow 0xE#4 3 cn p1 p2 p3 s

/-- `cin` 0xF, one byte (R190). -/
def execPktSingleByte (cn : Nibble) (p1 p2 p3 : Byte) (s : State) : Host.Outcome State Fault Refusal := packetRow 0xF#4 1 cn p1 p2 p3 s

end Sys2Proof.Machine
end

