-- ==== Sys2Proof/Machine/LinkTx.lean ====
section
/-! DEFINITION. The Link Transmitter and the link primitive (spec/44_link_tx.md): the enqueue of one byte, the step that
sends a forwarded message, and `LINK_POP`. The client calls `SEND` and `FLUSH`, which may wait, are in Machine/Poll.lean. -/

namespace Sys2Proof.Machine

open Sys2Proof

/-- The atomic part of `SEND(b)`, at the instant `now` (R220). -/
def enqueue (b : Byte) (s : State) : State :=
  { s with
    link :=
      { s.link with
        hwq := s.link.hwq ++ [b]
        lastUs := s.env.now
        lastValid := true
        byteCount := s.link.byteCount + 1#32 }
    out := { s.out with sent := s.out.sent ++ [(s.env.now, b)] } }

/-- The removal of the byte just sent from the front of `tx_pend`, with `PULSE` when that empties it
(spec/45_poll_loop.md R243, spec/43_router.md R206). -/
def dropSent (rest : List Byte) (s : State) : State :=
  let s := { s with seq := { s.seq with txPend := rest } }
  if rest.isEmpty then pulse s else s

/-- `SEND_STEP` (spec/45_poll_loop.md R243, R244): the front byte of `tx_pend` when `SEND`'s wait condition holds;
otherwise `A_POLL` waits. -/
def sendStep (s : State) : State :=
  match s.seq.txPend with
  | [] => s
  | b :: rest => if sendReady s then dropSent rest (enqueue b s) else s

/-- `LINK_POP` on a queue that is not empty (R226). -/
def linkPop (s : State) : State :=
  match s.link.hwq with
  | [] => s
  | b :: rest =>
    { s with link := { s.link with hwq := rest }, out := { s.out with linkOut := s.out.linkOut ++ [b] } }

/-- `LINK_POP` (R226): the one step of `A_LINK`, enabled while `hwq` is not empty and, as R44 and R304 say of every agent
of the data path, `active` (notes/assumptions/23.md). -/
def execLinkPop (s : State) : Host.Outcome State Fault Refusal := .next (if s.active then linkPop s else s)

end Sys2Proof.Machine
end

