-- ==== Sys2Proof/Machine/Parser.lean ====
section
/-! DEFINITION. The Message Stream Parser (spec/41_parser.md): one operation per rule, `PARSE` in the test order of R120,
and the meaning of every row of the byte stream. -/

namespace Sys2Proof.Machine

open Sys2Proof

/-! ### Delivery and completion -/

/-- `DELIVER(m)` (R150): the listener (R151) first, then the mailbox, where the latest wins. -/
def deliver (m : Message) (s : State) : State :=
  let s := onParserMessage m s
  let s := if s.mbx.full then raise (.mailboxOverwrite s.mbx.msg) s else s
  { s with mbx := { full := true, msg := m } }

/-- The normalisation of `COMPLETE` (R149): a note-on with second data value 0 becomes a note-off. -/
def normalise : List Byte → List Byte
  | [s, d1, d2] => if hiNibble s = 0x9#4 ∧ d2 = 0#8 then [joinNibbles 0x8#4 (loNibble s), d1, d2] else [s, d1, d2]
  | raw => raw

/-- The message `COMPLETE` emits: the accumulator's bytes, normalised (R149). -/
def completed (p : Parser) : Message := { raw := normalise (p.accRaw.toList.take p.accLen) }

/-- `COMPLETE` (R149): empty the accumulator, go to `Idle`, deliver. -/
def complete (s : State) : State :=
  deliver (completed s.parser) { s with parser := { s.parser with accLen := 0, accNeed := 0, st := .idle } }

/-! ### Status bytes -/

/-- The event for a partly collected message that a status byte abandons (R121, R130). -/
def abandon (s : State) : State :=
  if s.parser.accLen ≠ 0 then raise (.partialAbandoned s.parser.accRaw[0]) s else s

/-- `CV_STATUS(b)` (R121). -/
def cvStatus (b : Byte) (s : State) : State :=
  let s := abandon s
  { s with
    parser :=
      { s.parser with
        rsValid := true
        rsStatus := b
        accRaw := s.parser.accRaw.set 0 b
        accLen := 1
        accNeed := needOf b
        st := .collectingData1 } }

/-- `SYS_COMMON(b)` (R130): what every system-common status byte does first. -/
def sysCommon (s : State) : State :=
  let s := abandon s
  { s with parser := { s.parser with rsValid := false } }

/-- The data-bearing system-common bytes load the accumulator (R132 to R134). -/
def sysLoad (b : Byte) (need : Nat) (s : State) : State :=
  let s := sysCommon s
  { s with
    parser := { s.parser with accRaw := s.parser.accRaw.set 0 b, accLen := 1, accNeed := need, st := .collectingData1 } }

/-- The other system-common bytes empty the accumulator and leave the parser in `st` (R131, R135 to R138). -/
def sysEmpty (st : ParserState) (s : State) : State :=
  let s := sysCommon s
  { s with parser := { s.parser with accLen := 0, accNeed := 0, st := st } }

/-- `F4`, `F5`, and `F7` outside a block (R135, R136, R138). -/
def sysUndefined (b : Byte) (s : State) : State := raise (.undefinedStatus b) (sysEmpty .idle s)

/-- `F6` (R137): completes at once. -/
def sysTune (s : State) : State := deliver { raw := [0xF6#8] } (sysEmpty .idle s)

/-- A system-common status byte outside a block, by its value (R131 to R138). -/
def sysStatus (b : Byte) (s : State) : State :=
  match b.toNat % 8 with
  | 0 => sysEmpty .ignoringSystemBlock s
  | 1 => sysLoad 0xF1#8 1 s
  | 2 => sysLoad 0xF2#8 2 s
  | 3 => sysLoad 0xF3#8 1 s
  | 4 => sysUndefined 0xF4#8 s
  | 5 => sysUndefined 0xF5#8 s
  | 6 => sysTune s
  | _ => sysUndefined 0xF7#8 s

/-- Steps 3 and 4 of R120: a status byte `0x80` to `0xF7` that is acted on. -/
def parseStatus (b : Byte) (s : State) : State := if isChannelVoice b then cvStatus b s else sysStatus b s

/-- `RT(b)` (R129). -/
def realTime (b : Byte) (s : State) : State := deliver { raw := [b] } s

/-! ### Bytes in a system block (R140) -/

/-- `ps_state <- Idle`: the block ends. -/
def leaveBlock (s : State) : State := { s with parser := { s.parser with st := .idle } }

/-- A discarded byte of the block. -/
def sysexDiscard (b : Byte) (s : State) : State := raise (.sysexDiscard b) s

/-- A status byte `0x80` to `0xF6` and the rule `act` it has outside a block. In the block it is discarded, or, with
`SYSEX_STATUS_ABORTS`, ends the block and is then acted on (R140). -/
def statusByRule (b : Byte) (act : State → State) (s : State) : State :=
  if s.parser.st = .ignoringSystemBlock then
    (if s.config.sysexAborts then act (leaveBlock s) else sysexDiscard b s)
  else act s

/-- `IN_BLOCK(b)` (R140), for `b < 0xF8`. -/
def inBlock (b : Byte) (s : State) : State :=
  if b = 0xF7#8 then leaveBlock s
  else if s.config.sysexAborts && isStatus b then parseStatus b (leaveBlock s)
  else sysexDiscard b s

/-! ### Data bytes -/

/-- `DATA1(b)` (R146). -/
def dataFirst (b : Byte) (s : State) : State :=
  let s := { s with
    parser := { s.parser with accRaw := s.parser.accRaw.set 1 b, accLen := 2, accNeed := s.parser.accNeed - 1 } }
  if s.parser.accNeed = 0 then complete s else { s with parser := { s.parser with st := .collectingData2 } }

/-- `DATA2(b)` (R147). -/
def dataSecond (b : Byte) (s : State) : State :=
  complete { s with parser := { s.parser with accRaw := s.parser.accRaw.set 2 b, accLen := 3, accNeed := 0 } }

/-- `RESUME(b)` (R145): load the accumulator from running status, then R146 with the same byte. -/
def dataResume (b : Byte) (s : State) : State :=
  dataFirst b { s with
    parser :=
      { s.parser with
        accRaw := s.parser.accRaw.set 0 s.parser.rsStatus
        accLen := 1
        accNeed := needOf s.parser.rsStatus
        st := .collectingData1 } }

/-- A stray data byte (R148). -/
def dataStray (b : Byte) (s : State) : State := raise (.strayData b) s

/-- A data byte, by `ps_state` and `rs_valid` (R140, R145 to R148). -/
def parseData (b : Byte) (s : State) : State :=
  match s.parser.st with
  | .collectingData1 => dataFirst b s
  | .collectingData2 => dataSecond b s
  | .ignoringSystemBlock => sysexDiscard b s
  | .idle => if s.parser.rsValid then dataResume b s else dataStray b s

/-! ### `PARSE` -/

/-- `PARSE(b)` (R120): the five tests, in order. -/
def parse (b : Byte) (s : State) : State :=
  if isRealTime b then realTime b s
  else if s.parser.st = .ignoringSystemBlock then inBlock b s
  else if isStatus b then parseStatus b s
  else parseData b s

/-! ### The rows of the byte stream

Each row has the effect of its own rule where the table's `when` field selects it. A stream byte given to another row of
the same value is handled as R120 handles that byte (spec/30_encoding.md R100; notes/assumptions/12.md). -/

/-- `PARSE` (R120). -/
def execParse (b : Byte) (s : State) : Host.Outcome State Fault Refusal := onPoll (parse b) s

/-- `DELIVER` (R150). -/
def execDeliver (m : Message) (s : State) : Host.Outcome State Fault Refusal := onMessage m (deliver m) s

/-- A channel-voice status byte with upper nibble `hi` (R121). -/
def voiceRow (hi ch : Nibble) (s : State) : Host.Outcome State Fault Refusal :=
  onPoll (statusByRule (joinNibbles hi ch) (cvStatus (joinNibbles hi ch))) s

/-- `0x80` to `0x8F` (R122). -/
def execNoteOffStatus (ch : Nibble) (s : State) : Host.Outcome State Fault Refusal := voiceRow 0x8#4 ch s

/-- `0x90` to `0x9F` (R123). -/
def execNoteOnStatus (ch : Nibble) (s : State) : Host.Outcome State Fault Refusal := voiceRow 0x9#4 ch s

/-- `0xA0` to `0xAF` (R124). -/
def execPolyPressureStatus (ch : Nibble) (s : State) : Host.Outcome State Fault Refusal := voiceRow 0xA#4 ch s

/-- `0xB0` to `0xBF` (R125). -/
def execControlChangeStatus (ch : Nibble) (s : State) : Host.Outcome State Fault Refusal := voiceRow 0xB#4 ch s

/-- `0xC0` to `0xCF` (R126). -/
def execProgramChangeStatus (ch : Nibble) (s : State) : Host.Outcome State Fault Refusal := voiceRow 0xC#4 ch s

/-- `0xD0` to `0xDF` (R127). -/
def execChannelPressureStatus (ch : Nibble) (s : State) : Host.Outcome State Fault Refusal := voiceRow 0xD#4 ch s

/-- `0xE0` to `0xEF` (R128). -/
def execPitchBendStatus (ch : Nibble) (s : State) : Host.Outcome State Fault Refusal := voiceRow 0xE#4 ch s

/-- `0xF0` (R131). -/
def execSysexStart (s : State) : Host.Outcome State Fault Refusal :=
  onPoll (statusByRule 0xF0#8 (sysEmpty .ignoringSystemBlock)) s

/-- `0xF1` (R132). -/
def execSysF1 (s : State) : Host.Outcome State Fault Refusal := onPoll (statusByRule 0xF1#8 (sysLoad 0xF1#8 1)) s

/-- `0xF2` (R133). -/
def execSysF2 (s : State) : Host.Outcome State Fault Refusal := onPoll (statusByRule 0xF2#8 (sysLoad 0xF2#8 2)) s

/-- `0xF3` (R134). -/
def execSysF3 (s : State) : Host.Outcome State Fault Refusal := onPoll (statusByRule 0xF3#8 (sysLoad 0xF3#8 1)) s

/-- `0xF4` (R135). -/
def execUndefF4 (s : State) : Host.Outcome State Fault Refusal := onPoll (statusByRule 0xF4#8 (sysUndefined 0xF4#8)) s

/-- `0xF5` (R136). -/
def execUndefF5 (s : State) : Host.Outcome State Fault Refusal := onPoll (statusByRule 0xF5#8 (sysUndefined 0xF5#8)) s

/-- `0xF6` (R137). -/
def execTuneRequest (s : State) : Host.Outcome State Fault Refusal := onPoll (statusByRule 0xF6#8 sysTune) s

/-- `0xF7` outside a block (R138); in a block it is the terminator (R140). -/
def execStrayF7 (s : State) : Host.Outcome State Fault Refusal :=
  onPoll (fun s => if s.parser.st = .ignoringSystemBlock then leaveBlock s else sysUndefined 0xF7#8 s) s

/-- `0xF7` in a block (R140); outside a block it is a stray terminator (R138). -/
def execSysexEnd (s : State) : Host.Outcome State Fault Refusal :=
  onPoll (fun s => if s.parser.st = .ignoringSystemBlock then leaveBlock s else sysUndefined 0xF7#8 s) s

/-- A status byte discarded in a block (R140); where the row is not selected, the byte is parsed as R120 says. -/
def execInBlockStatus (low : Data7) (s : State) : Host.Outcome State Fault Refusal :=
  onPoll (fun s =>
    if s.parser.st = .ignoringSystemBlock ∧ s.config.sysexAborts = false ∧ statusByte low < 0xF7#8 then
      sysexDiscard (statusByte low) s
    else parse (statusByte low) s) s

/-- `0xF8` (R129). -/
def execRtF8 (s : State) : Host.Outcome State Fault Refusal := onPoll (realTime 0xF8#8) s

/-- `0xF9` (R129). -/
def execRtF9 (s : State) : Host.Outcome State Fault Refusal := onPoll (realTime 0xF9#8) s

/-- `0xFA` (R129). -/
def execRtFA (s : State) : Host.Outcome State Fault Refusal := onPoll (realTime 0xFA#8) s

/-- `0xFB` (R129). -/
def execRtFB (s : State) : Host.Outcome State Fault Refusal := onPoll (realTime 0xFB#8) s

/-- `0xFC` (R129). -/
def execRtFC (s : State) : Host.Outcome State Fault Refusal := onPoll (realTime 0xFC#8) s

/-- `0xFD` (R129). -/
def execRtFD (s : State) : Host.Outcome State Fault Refusal := onPoll (realTime 0xFD#8) s

/-- `0xFE` (R129). -/
def execRtFE (s : State) : Host.Outcome State Fault Refusal := onPoll (realTime 0xFE#8) s

/-- `0xFF` (R129). -/
def execRtFF (s : State) : Host.Outcome State Fault Refusal := onPoll (realTime 0xFF#8) s

/-- A data row: its own rule where the row is selected, otherwise the rule R120 selects for the byte. -/
def dataRow (selected : State → Bool) (act : Byte → State → State) (v : Data7) (s : State) :
    Host.Outcome State Fault Refusal :=
  onPoll (fun s => if selected s then act (dataByte v) s else parseData (dataByte v) s) s

/-- A data byte in `Idle` under running status (R145). -/
def execDataResume (v : Data7) (s : State) : Host.Outcome State Fault Refusal :=
  dataRow (fun s => decide (s.parser.st = .idle) && s.parser.rsValid) dataResume v s

/-- A data byte in `CollectingData1` (R146). -/
def execDataFirst (v : Data7) (s : State) : Host.Outcome State Fault Refusal :=
  dataRow (fun s => decide (s.parser.st = .collectingData1)) dataFirst v s

/-- A data byte in `CollectingData2` (R147). -/
def execDataSecond (v : Data7) (s : State) : Host.Outcome State Fault Refusal :=
  dataRow (fun s => decide (s.parser.st = .collectingData2)) dataSecond v s

/-- A data byte in `Idle` without running status (R148). -/
def execDataStray (v : Data7) (s : State) : Host.Outcome State Fault Refusal :=
  dataRow (fun s => decide (s.parser.st = .idle) && !s.parser.rsValid) dataStray v s

/-- A data byte in a system block (R140). -/
def execDataInBlock (v : Data7) (s : State) : Host.Outcome State Fault Refusal :=
  dataRow (fun s => decide (s.parser.st = .ignoringSystemBlock)) sysexDiscard v s

end Sys2Proof.Machine
end

