-- ==== Sys2Proof/Machine/RingBuffer.lean ====
section
/-! DEFINITION. The Byte Ring Buffer (spec/40_ring_buffer.md): `PUSH`, whose work is the receive interrupt's (Machine/Ops.lean),
and `POP`. `DRAIN`, whose iterations parse, is in Machine/Poll.lean. -/

namespace Sys2Proof.Machine

open Sys2Proof

/-- `POP` (R112): the oldest held byte and the state without it, or `none` when the ring is empty. -/
def ringPop (s : State) : Option (Byte × State) :=
  if ringEmpty s then none
  else some (ringRead s s.ring.rd, { s with ring := { s.ring with rd := ringNext s s.ring.rd } })

/-- `PUSH` (R110), on `A_RX`. -/
def execPush (b : Byte) (s : State) : Host.Outcome State Fault Refusal := .next (receiveInterrupt b s)

/-- `POP` (R112), on `A_POLL`, its result on the response latch. -/
def execPop (s : State) : Host.Outcome State Fault Refusal :=
  onPoll (fun s =>
    match ringPop s with
    | none => respond (.popped none) s
    | some (b, s') => respond (.popped (some b)) s') s

end Sys2Proof.Machine
end

