-- ==== Sys2Proof/Machine/Poll.lean ====
section
/-! DEFINITION. The poll sequencer (spec/45_poll_loop.md), and the calls on the poll context that wait or take several
steps: `DRAIN`, `MBX_TAKE`, `FLUSH` and a client's `SEND`. -/

namespace Sys2Proof.Machine

open Sys2Proof

/-! ### The steps of `A_POLL` (R244) -/

/-- `RING_STEP`: `POP`, then `PARSE` of the byte. -/
def ringStep (s : State) : State :=
  match ringPop s with
  | none => s
  | some (b, s') => parse b s'

/-- `seq_phase <- p`. -/
def setPhase (p : Phase) (s : State) : State := { s with seq := { s.seq with phase := p } }

/-- The phase's step: `RING_STEP` or `RING_DONE`, `HOST_STEP` or `HOST_DONE`. -/
def phaseStep (s : State) : State :=
  match s.seq.phase with
  | .ring => if ringEmpty s then setPhase .host s else ringStep s
  | .host =>
    match s.env.hostIn with
    | [] => setPhase .ring s
    | p :: rest => hostPacket p { s with env := { s.env with hostIn := rest } }

/-! ### Calls that wait (notes/assumptions/8.md) -/

/-- The oldest call returns. -/
def returnCall (rest : List Call) (s : State) : State := { s with seq := { s.seq with calls := rest, flushT0 := none } }

/-- `MBX_TAKE` (spec/41_parser.md R152). -/
def mbxTake (s : State) : State :=
  if s.mbx.full then respond (.mailbox (some s.mbx.msg)) { s with mbx := { s.mbx with full := false } }
  else respond (.mailbox none) s

/-- The settle margin of `FLUSH` (spec/44_link_tx.md R224): return when it has passed since `t0`, else keep waiting. -/
def flushSettle (rest : List Call) (t0 : Time) (s : State) : State :=
  if settled s t0 then respond .flushed (returnCall rest s) else { s with seq := { s.seq with flushT0 := some t0 } }

/-- One step of the oldest call: an iteration of `DRAIN` (spec/40_ring_buffer.md R113), `MBX_TAKE`, a `SEND` whose wait
condition holds (spec/44_link_tx.md R220), or the part of `FLUSH` that is enabled (R224). A call whose condition does not
hold waits. -/
def serveCall (s : State) : State :=
  match s.seq.calls with
  | [] => s
  | .drain :: rest => if ringEmpty s then returnCall rest s else ringStep s
  | .mbxTake :: rest => mbxTake (returnCall rest s)
  | .send b :: rest => if sendReady s then enqueue b (returnCall rest s) else s
  | .flush :: rest =>
    match s.seq.flushT0 with
    | some t0 => flushSettle rest t0 s
    | none => if hwqEmpty s then flushSettle rest s.env.now s else s

/-- One step of the sequencer, the data path being active (R240, R243, R244): a forwarded byte first, then the oldest
unfinished call, then the phase's step. -/
def pollStep (s : State) : State :=
  if s.seq.txPend.isEmpty then
    (if s.seq.calls.isEmpty then phaseStep s else serveCall s)
  else sendStep s

/-- A call begins on a free poll context: its first step. -/
def beginCall (c : Call) (s : State) : State := serveCall { s with seq := { s.seq with calls := [c], flushT0 := none } }

/-- A client calls on the poll context: the call begins at once when `A_POLL` is free and waits its turn otherwise. While
`active` is 0 there is no such call (spec/70_reset_and_hazards.md R304). -/
def makeCall (c : Call) (s : State) : Host.Outcome State Fault Refusal :=
  if s.active then
    .next (if pollFree s then beginCall c s
      else { s with seq := { s.seq with calls := s.seq.calls ++ [c] } })
  else .next s

/-! ### The operations as instructions -/

/-- `POLL` (R240): one step of the sequencer, for ever while `active` is 1. -/
def execPoll (s : State) : Host.Outcome State Fault Refusal := .next (if s.active then pollStep s else s)

/-- `DRAIN` (spec/40_ring_buffer.md R113): this is its first iteration; the later ones are steps of `A_POLL`. -/
def execDrain (s : State) : Host.Outcome State Fault Refusal := makeCall .drain s

/-- `MBX_TAKE` (spec/41_parser.md R152). -/
def execMbxTake (s : State) : Host.Outcome State Fault Refusal := makeCall .mbxTake s

/-- `SEND(b)` by a client of the transmitter (spec/44_link_tx.md R220, R221). -/
def execSend (b : Byte) (s : State) : Host.Outcome State Fault Refusal := makeCall (.send b) s

/-- `FLUSH` (spec/44_link_tx.md R224). -/
def execFlush (s : State) : Host.Outcome State Fault Refusal := makeCall .flush s

end Sys2Proof.Machine
end

