-- ==== Sys2Proof/Machine/Setup.lean ====
section
/-! DEFINITION. Initialisation (spec/70_reset_and_hazards.md R302 to R304). -/

namespace Sys2Proof.Machine

open Sys2Proof

/-- `INIT(transport_ok, gap)`, once, with `active == 0` and no earlier failure (R302, spec/45_poll_loop.md R245); at any
other time there is no such step. The event of a failure records the transport the environment names
(spec/60_exceptions.md R260; notes/assumptions/18.md). -/
def initialise (transportOk : Bool) (gap : Option Time) (s : State) : State :=
  if s.active || s.initFail then s
  else if transportOk then
    { s with link := { s.link with minGapUs := gap.getD minGapDefault }, active := true }
  else raise (.initFailure s.env.failedTransport) { s with initFail := true }

/-- `INIT` (R302). -/
def execInit (transportOk : Bool) (gap : Option Time) (s : State) : Host.Outcome State Fault Refusal :=
  .next (initialise transportOk gap s)

end Sys2Proof.Machine
end

