-- ==== Sys2Proof/Machine/Dispatch.lean ====
section
/-! DEFINITION. One arm per instruction, each one direct call of its meaning. -/

namespace Sys2Proof.Machine

open Sys2Proof

def exec (i : Instr) (s : State) : Host.Outcome State Fault Refusal :=
  match i with
  | .noteOffStatus ch => Sys2Proof.Machine.execNoteOffStatus ch s
  | .noteOnStatus ch => Sys2Proof.Machine.execNoteOnStatus ch s
  | .polyPressureStatus ch => Sys2Proof.Machine.execPolyPressureStatus ch s
  | .controlChangeStatus ch => Sys2Proof.Machine.execControlChangeStatus ch s
  | .programChangeStatus ch => Sys2Proof.Machine.execProgramChangeStatus ch s
  | .channelPressureStatus ch => Sys2Proof.Machine.execChannelPressureStatus ch s
  | .pitchBendStatus ch => Sys2Proof.Machine.execPitchBendStatus ch s
  | .sysexStart => Sys2Proof.Machine.execSysexStart s
  | .sysF1 => Sys2Proof.Machine.execSysF1 s
  | .sysF2 => Sys2Proof.Machine.execSysF2 s
  | .sysF3 => Sys2Proof.Machine.execSysF3 s
  | .undefF4 => Sys2Proof.Machine.execUndefF4 s
  | .undefF5 => Sys2Proof.Machine.execUndefF5 s
  | .tuneRequest => Sys2Proof.Machine.execTuneRequest s
  | .strayF7 => Sys2Proof.Machine.execStrayF7 s
  | .sysexEnd => Sys2Proof.Machine.execSysexEnd s
  | .inBlockStatus low => Sys2Proof.Machine.execInBlockStatus low s
  | .rtF8 => Sys2Proof.Machine.execRtF8 s
  | .rtF9 => Sys2Proof.Machine.execRtF9 s
  | .rtFA => Sys2Proof.Machine.execRtFA s
  | .rtFB => Sys2Proof.Machine.execRtFB s
  | .rtFC => Sys2Proof.Machine.execRtFC s
  | .rtFD => Sys2Proof.Machine.execRtFD s
  | .rtFE => Sys2Proof.Machine.execRtFE s
  | .rtFF => Sys2Proof.Machine.execRtFF s
  | .dataResume v => Sys2Proof.Machine.execDataResume v s
  | .dataFirst v => Sys2Proof.Machine.execDataFirst v s
  | .dataSecond v => Sys2Proof.Machine.execDataSecond v s
  | .dataStray v => Sys2Proof.Machine.execDataStray v s
  | .dataInBlock v => Sys2Proof.Machine.execDataInBlock v s
  | .pktCin0 cn p1 p2 p3 => Sys2Proof.Machine.execPktCin0 cn p1 p2 p3 s
  | .pktCin1 cn p1 p2 p3 => Sys2Proof.Machine.execPktCin1 cn p1 p2 p3 s
  | .pktSys2 cn p1 p2 p3 => Sys2Proof.Machine.execPktSys2 cn p1 p2 p3 s
  | .pktSys3 cn p1 p2 p3 => Sys2Proof.Machine.execPktSys3 cn p1 p2 p3 s
  | .pktCin4 cn p1 p2 p3 => Sys2Proof.Machine.execPktCin4 cn p1 p2 p3 s
  | .pktSys1 cn p1 p2 p3 => Sys2Proof.Machine.execPktSys1 cn p1 p2 p3 s
  | .pktCin6 cn p1 p2 p3 => Sys2Proof.Machine.execPktCin6 cn p1 p2 p3 s
  | .pktCin7 cn p1 p2 p3 => Sys2Proof.Machine.execPktCin7 cn p1 p2 p3 s
  | .pktNoteOff cn p1 p2 p3 => Sys2Proof.Machine.execPktNoteOff cn p1 p2 p3 s
  | .pktNoteOn cn p1 p2 p3 => Sys2Proof.Machine.execPktNoteOn cn p1 p2 p3 s
  | .pktPolyPressure cn p1 p2 p3 => Sys2Proof.Machine.execPktPolyPressure cn p1 p2 p3 s
  | .pktControlChange cn p1 p2 p3 => Sys2Proof.Machine.execPktControlChange cn p1 p2 p3 s
  | .pktProgramChange cn p1 p2 p3 => Sys2Proof.Machine.execPktProgramChange cn p1 p2 p3 s
  | .pktChannelPressure cn p1 p2 p3 => Sys2Proof.Machine.execPktChannelPressure cn p1 p2 p3 s
  | .pktPitchBend cn p1 p2 p3 => Sys2Proof.Machine.execPktPitchBend cn p1 p2 p3 s
  | .pktSingleByte cn p1 p2 p3 => Sys2Proof.Machine.execPktSingleByte cn p1 p2 p3 s
  | .encChannelVoice m => Sys2Proof.Machine.execEncChannelVoice m s
  | .encRealTime r => Sys2Proof.Machine.execEncRealTime r s
  | .encSysF0 => Sys2Proof.Machine.execEncSysF0 s
  | .encSysF6 => Sys2Proof.Machine.execEncSysF6 s
  | .encSysF1 d => Sys2Proof.Machine.execEncSysF1 d s
  | .encSysF3 d => Sys2Proof.Machine.execEncSysF3 d s
  | .encSysF2 d1 d2 => Sys2Proof.Machine.execEncSysF2 d1 d2 s
  | .push b => Sys2Proof.Machine.execPush b s
  | .pop => Sys2Proof.Machine.execPop s
  | .drain => Sys2Proof.Machine.execDrain s
  | .parse b => Sys2Proof.Machine.execParse b s
  | .deliver m => Sys2Proof.Machine.execDeliver m s
  | .mbxTake => Sys2Proof.Machine.execMbxTake s
  | .decode p => Sys2Proof.Machine.execDecode p s
  | .encode m => Sys2Proof.Machine.execEncode m s
  | .onParserMessage m => Sys2Proof.Machine.execOnParserMessage m s
  | .mirror m => Sys2Proof.Machine.execMirror m s
  | .route m => Sys2Proof.Machine.execRoute m s
  | .onHostMessage m => Sys2Proof.Machine.execOnHostMessage m s
  | .policyDrop m => Sys2Proof.Machine.execPolicyDrop m s
  | .forward m e => Sys2Proof.Machine.execForward m e s
  | .pulse => Sys2Proof.Machine.execPulse s
  | .mapReplace map enable => Sys2Proof.Machine.execMapReplace map enable s
  | .send b => Sys2Proof.Machine.execSend b s
  | .flush => Sys2Proof.Machine.execFlush s
  | .linkPop => Sys2Proof.Machine.execLinkPop s
  | .poll => Sys2Proof.Machine.execPoll s
  | .init transportOk gap => Sys2Proof.Machine.execInit transportOk gap s

end Sys2Proof.Machine
end

