-- ==== Sys2Proof/Machine/Fetch.lean ====
section
/-! DEFINITION. What the next turn brings: the instruction `A_POLL` reads from the ring or from the host packets and
decodes, the byte the serial line delivers, and the environment's own steps (spec/45_poll_loop.md R244, R245). -/

namespace Sys2Proof.Machine

open Sys2Proof

/-- The instruction of a turn of `A_POLL` and the state it runs in. In the ring phase the next byte is popped and decoded;
in the host phase the next packet is read and decoded; when neither is enabled, `POLL` itself has the step (R244). -/
def fetchPoll (s : State) : Instr × State :=
  if pollFree s then
    match s.seq.phase with
    | .ring =>
      match ringPop s with
      | some (b, s') => (decodeByte (decodeCtx s) b, s')
      | none => (.poll, s)
    | .host =>
      match s.env.hostIn with
      | p :: rest => (decodePacket p, { s with env := { s.env with hostIn := rest } })
      | [] => (.poll, s)
  else (.poll, s)

/-- The byte the serial line delivers next, as a `PUSH` (spec/60_exceptions.md R275); none when the line is idle. -/
def fetchSerial (s : State) : Option (Instr × State) :=
  match s.env.serialIn with
  | [] => none
  | b :: rest => some (.push b, { s with env := { s.env with serialIn := rest } })

/-- `INIT` with the `transport_ok` the environment supplies (spec/10_state.md R46). -/
def fetchInit (gap : Option Time) (s : State) : Instr × State := (.init s.env.transportOk gap, s)

/-- `now <- now + d`: it fits, or it does not. -/
def advanceFits (d : Time) (s : State) : Bool := decide (s.env.now.toNat + d.toNat < 2 ^ 64)

/-- `now <- now + d` (R245). `now` never wraps (spec/10_state.md R45, D20): the model stops where it would
(notes/assumptions/15.md). -/
def advanceTime (d : Time) (s : State) : Host.Outcome State Fault Refusal :=
  if advanceFits d s then .next { s with env := { s.env with now := s.env.now + d } } else .fault .timeBaseEnd

/-- A host packet arrives (R245). -/
def hostArrive (p : Packet) (s : State) : State := { s with env := { s.env with hostIn := s.env.hostIn ++ [p] } }

/-- `host_ready` changes (R245). -/
def setHostReady (v : Bool) (s : State) : State := { s with env := { s.env with hostReady := v } }

/-- The controller sends a byte (spec/10_state.md R46). -/
def serialArrive (b : Byte) (s : State) : State := { s with env := { s.env with serialIn := s.env.serialIn ++ [b] } }

/-- `transport_ok` changes (spec/10_state.md R46). -/
def setTransportOk (v : Bool) (s : State) : State := { s with env := { s.env with transportOk := v } }

/-- The transport that cannot be acquired changes (notes/assumptions/18.md). -/
def setTransportFailed (which : Transport) (s : State) : State := { s with env := { s.env with failedTransport := which } }

/-- The turns after the next. -/
def setSched (ts : List Turn) (s : State) : State := { s with env := { s.env with sched := ts } }

/-- `s` with `A_POLL` free, the data path active and its turn next: what placing an instruction in front of the fetch
needs beside the bytes (notes/assumptions/6.md). -/
def readyToFetch (phase : Phase) (s : State) : State :=
  { s with
    active := true
    seq := { s.seq with txPend := [], calls := [], phase := phase }
    env := { s.env with sched := [] } }

/-- `s` with `b` stored at `rb_rd`, where the next `POP` reads, and held by the ring. -/
def placeByte (b : Byte) (s : State) : State :=
  let t := ringWrite s s.ring.rd b
  if ringEmpty s then { t with ring := { t.ring with wr := ringNext s s.ring.rd } } else t

/-- `s` with `p` at the front of `host_in`, where the next host read takes it. -/
def placePacket (p : Packet) (s : State) : State := { s with env := { s.env with hostIn := p :: s.env.hostIn } }

/-- The instruction of `nbits` table bits `w` placed where the next step fetches: 8 bits are a byte of the ring, 32 bits a
host packet. -/
def placeWord (s : State) (nbits w : Nat) : State :=
  if nbits = 32 then
    placePacket
      { p0 := BitVec.ofNat 8 w
        p1 := BitVec.ofNat 8 (w / 0x100)
        p2 := BitVec.ofNat 8 (w / 0x10000)
        p3 := BitVec.ofNat 8 (w / 0x1000000) } (readyToFetch .host s)
  else placeByte (BitVec.ofNat 8 w) (readyToFetch .ring s)

end Sys2Proof.Machine
end

