-- ==== Sys2Proof/Machine/Step.lean ====
section
/-! DEFINITION. One step of the block: the turn the schedule names, and `A_POLL`'s where it names none
(notes/assumptions/5.md). -/

namespace Sys2Proof.Machine

open Sys2Proof

/-- Run a fetched instruction. -/
def runFetched (f : Instr × State) : Host.Outcome State Fault Refusal := exec f.1 f.2

/-- One turn, taken off the schedule. -/
def takeTurn (t : Turn) (s : State) : Host.Outcome State Fault Refusal :=
  match t with
  | .poll => runFetched (fetchPoll s)
  | .rx =>
    match fetchSerial s with
    | some f => runFetched f
    | none => .next s
  | .run i => exec i s
  | .init gap => runFetched (fetchInit gap s)
  | .advance d => advanceTime d s
  | .hostArrive p => .next (hostArrive p s)
  | .hostReady v => .next (setHostReady v s)
  | .serialArrive b => .next (serialArrive b s)
  | .transportOk v => .next (setTransportOk v s)
  | .transportFailed which => .next (setTransportFailed which s)

/-- One step: the next turn of the schedule, or a turn of `A_POLL`. -/
def step (s : State) : Host.Outcome State Fault Refusal :=
  match s.env.sched with
  | [] => takeTurn .poll s
  | t :: ts => takeTurn t (setSched ts s)

/-- `s` with the table's instruction stored where the next step fetches (notes/assumptions/6.md). -/
def State.withFetchWord (s : State) (nbits w : Nat) : State := placeWord s nbits w

end Sys2Proof.Machine
end

