-- ==== Sys2Proof/Safety.lean ====
section
/-! DEFINITION. What counts as a well-kept state and a safe run, in the terms the statements use. -/

namespace Sys2Proof.Machine

open Sys2Proof

/-- The parser's rows of the invariant table of spec/10_state.md R51. -/
structure ParserInv (p : Parser) : Prop where
  idle : p.st = .idle → p.accLen = 0 ∧ p.accNeed = 0
  collecting1 : p.st = .collectingData1 →
    p.accLen = 1 ∧
      ((0x80#8 ≤ p.accRaw[0] ∧ p.accRaw[0] ≤ 0xEF#8) ∨ p.accRaw[0] = 0xF1#8 ∨ p.accRaw[0] = 0xF2#8 ∨
        p.accRaw[0] = 0xF3#8) ∧
      nd p.accRaw[0] = some p.accNeed
  collecting2 : p.st = .collectingData2 →
    p.accLen = 2 ∧ nd p.accRaw[0] = some 2 ∧ p.accNeed = 1 ∧ p.accRaw[1] < 0x80#8
  ignoring : p.st = .ignoringSystemBlock → p.accLen = 0 ∧ p.accNeed = 0 ∧ p.rsValid = false
  voice : 1 ≤ p.accLen → p.accRaw[0] ≤ 0xEF#8 → p.rsValid = true ∧ p.rsStatus = p.accRaw[0]
  system : 1 ≤ p.accLen → 0xF0#8 ≤ p.accRaw[0] → p.rsValid = false
  running : p.rsValid = true → 0x80#8 ≤ p.rsStatus ∧ p.rsStatus ≤ 0xEF#8

/-- The ring: both index registers are in range (spec/10_state.md R22, R23), and the storage is in canonical form with no
cell outside `0 .. RB_CAP-1` (R21). -/
structure RingInv (s : State) : Prop where
  wr : s.ring.wr < ringCap s
  rd : s.ring.rd < ringCap s
  wf : s.ring.mem.wf
  inRange : ∀ c ∈ s.ring.mem, c.1 < ringCap s

/-- The invariants of the state's structure: spec/10_state.md R51, with the ranges of the parameters (R7), the form of the
ring storage, and a failed initialisation leaving the block inert (R304). -/
structure StateInv (s : State) : Prop where
  config : s.config.wf = true
  ring : RingInv s
  parser : ParserInv s.parser
  mailbox : s.mbx.full = true → msgOk s.mbx.msg = true
  hwq : s.link.hwq.length ≤ s.config.hwqDepth
  txPend : s.seq.txPend.length ≤ 3
  inert : s.active = true → s.initFail = false

/-- Nothing is dropped, duplicated or reordered between `SEND` and the wire, and the byte counter counts the enqueues
(spec/44_link_tx.md R223). -/
structure LinkInv (s : State) : Prop where
  conserved : s.out.linkOut ++ s.link.hwq = s.out.sent.map Prod.snd
  counted : s.link.byteCount = BitVec.ofNat 32 s.out.sent.length

/-- Consecutive enqueue instants are at least `lt_min_gap_us` apart (spec/44_link_tx.md R222), with what that rests on:
`lt_last_us` is the last enqueue instant and lies in the past (R228), and nothing has been sent before `INIT`. -/
structure PacingInv (s : State) : Prop where
  gaps : s.out.sent.IsChain (fun a b => a.1.toNat + s.link.minGapUs.toNat ≤ b.1.toNat)
  last : s.link.lastValid = true → s.out.sent.getLast?.map Prod.fst = some s.link.lastUs
  first : s.link.lastValid = false → s.out.sent = []
  past : s.link.lastValid = true → s.link.lastUs ≤ s.env.now
  inactive : s.active = false → s.out.sent = []

/-- A `RingOverflow` event, code 1. -/
def isRingOverflow (e : Event) : Bool := e.code == 1

/-- A `PolicyDrop` event, code 8. -/
def isPolicyDrop (e : Event) : Bool := e.code == 8

/-- Each of the two loss counters has counted its event, modulo `2^CNT_W` (spec/60_exceptions.md R260, codes 1 and 8). -/
structure CounterInv (s : State) : Prop where
  overflow : s.ring.overflow = BitVec.ofNat 32 (s.out.events.countP isRingOverflow)
  drops : s.rtDrop = BitVec.ofNat 32 (s.out.events.countP isPolicyDrop)

/-- Two states that differ at most in the mailbox, the event log and the response latch. -/
structure SameButMailbox (s t : State) : Prop where
  config : s.config = t.config
  ring : s.ring = t.ring
  parser : s.parser = t.parser
  chmap : s.chmap = t.chmap
  rtDrop : s.rtDrop = t.rtDrop
  link : s.link = t.link
  seq : s.seq = t.seq
  active : s.active = t.active
  initFail : s.initFail = t.initFail
  env : s.env = t.env
  hostOut : s.out.hostOut = t.out.hostOut
  linkOut : s.out.linkOut = t.out.linkOut
  pulseOut : s.out.pulseOut = t.out.pulseOut
  sent : s.out.sent = t.out.sent

/-- Run instructions one after another, stopping at the first that does not answer a next state. -/
def runInstrs : List Instr → State → Host.Outcome State Fault Refusal
  | [], s => .next s
  | i :: is, s =>
    match exec i s with
    | .next t => runInstrs is t
    | .fault f => .fault f
    | .refused r => .refused r

/-- The instructions that are one atomic step of `A_POLL`, begun only when `A_POLL` is free: every row of the byte stream,
of the packets and of the encoder, and the operations of the parser, the codec and the router. Not the sequencer itself,
not the calls of clients, which may wait, and not the operations of `A_RX`, `A_LINK` and `A_CFG` (spec/45_poll_loop.md
R244, R245). -/
def isPollStep : Instr → Bool
  | .push _ | .mapReplace _ _ | .linkPop | .init _ _ => false
  | .poll | .drain | .mbxTake | .send _ | .flush => false
  | .pop | .parse _ | .deliver _ | .decode _ | .encode _ | .onParserMessage _ | .mirror _ | .route _ | .onHostMessage _
  | .policyDrop _ | .forward _ _ | .pulse => true
  | .encChannelVoice _ | .encRealTime _ | .encSysF0 | .encSysF6 | .encSysF1 _ | .encSysF3 _ | .encSysF2 _ _ => true
  | .noteOffStatus _ | .noteOnStatus _ | .polyPressureStatus _ | .controlChangeStatus _ | .programChangeStatus _
  | .channelPressureStatus _ | .pitchBendStatus _ => true
  | .sysexStart | .sysF1 | .sysF2 | .sysF3 | .undefF4 | .undefF5 | .tuneRequest | .strayF7 | .sysexEnd
  | .inBlockStatus _ => true
  | .rtF8 | .rtF9 | .rtFA | .rtFB | .rtFC | .rtFD | .rtFE | .rtFF => true
  | .dataResume _ | .dataFirst _ | .dataSecond _ | .dataStray _ | .dataInBlock _ => true
  | .pktCin0 _ _ _ _ | .pktCin1 _ _ _ _ | .pktSys2 _ _ _ _ | .pktSys3 _ _ _ _ | .pktCin4 _ _ _ _ | .pktSys1 _ _ _ _
  | .pktCin6 _ _ _ _ | .pktCin7 _ _ _ _ | .pktNoteOff _ _ _ _ | .pktNoteOn _ _ _ _ | .pktPolyPressure _ _ _ _
  | .pktControlChange _ _ _ _ | .pktProgramChange _ _ _ _ | .pktChannelPressure _ _ _ _ | .pktPitchBend _ _ _ _
  | .pktSingleByte _ _ _ _ => true

/-- The event of a status byte that abandons a partly collected message (spec/41_parser.md R121, R130). -/
def abandonedEvents (p : Parser) : List Event := if p.accLen = 0 then [] else [.partialAbandoned p.accRaw[0]]

/-- The event of a mirrored message that finds no session (spec/43_router.md R201). -/
def notReadyEvents (s : State) (m : Message) : List Event := if s.env.hostReady then [] else [.hostNotReady m]

/-- The event of a delivery that finds an unread message in the mailbox (spec/41_parser.md R150). -/
def overwriteEvents (s : State) : List Event := if s.mbx.full then [.mailboxOverwrite s.mbx.msg] else []

end Sys2Proof.Machine
end

