-- ==== Sys2Proof/Certificates/Slice0/Obligations.lean ====
section
/-! DEFINITION. The statements for the provers, from the numbered rules of spec/. A premise `pollFree s = true` says that
the data path is active, that no forwarded byte waits and that no client's call is unfinished: the state in which `A_POLL`
may begin a step (spec/45_poll_loop.md R244; the calls are the model's own, notes/assumptions/8.md). Each statement that
gives a next state gives all of it, so it is its own frame and its own completion. -/

open Sys2Proof Sys2Proof.Machine

/-! ### Encoding -/

/-- Words written out from the bit layouts of spec/30_encoding.md R81 to R84, R91, R92 and R100 decode to the rows they
stand for. -/
def Obligations.DecodedWordsAreTheSpecs : Prop :=
  let idle : DecodeCtx := { st := .idle, rsValid := false, sysexAborts := false }
  let running : DecodeCtx := { st := .idle, rsValid := true, sysexAborts := false }
  let one : DecodeCtx := { st := .collectingData1, rsValid := true, sysexAborts := false }
  let two : DecodeCtx := { st := .collectingData2, rsValid := true, sysexAborts := false }
  let block : DecodeCtx := { st := .ignoringSystemBlock, rsValid := false, sysexAborts := false }
  let blockAborts : DecodeCtx := { st := .ignoringSystemBlock, rsValid := false, sysexAborts := true }
  -- format CV, `1kkk cccc`
  decodeByte idle 0b10000011#8 = .noteOffStatus 3#4 ∧ decodeByte two 0b10010100#8 = .noteOnStatus 4#4 ∧
  decodeByte one 0b11101111#8 = .pitchBendStatus 15#4 ∧ decodeByte blockAborts 0b11000010#8 = .programChangeStatus 2#4 ∧
  -- format SYS, `1111 0sss`, and the two rows of a byte inside a block
  decodeByte idle 0b11110000#8 = .sysexStart ∧ decodeByte one 0b11110110#8 = .tuneRequest ∧
  decodeByte idle 0b11110111#8 = .strayF7 ∧ decodeByte block 0b11110111#8 = .sysexEnd ∧
  decodeByte block 0b10010000#8 = .inBlockStatus 0x10#7 ∧
  -- format RT, `1111 1rrr`, in any state
  decodeByte idle 0b11111000#8 = .rtF8 ∧ decodeByte block 0b11111101#8 = .rtFD ∧
  -- format DATA, `0ddd dddd`
  decodeByte running 0b01000000#8 = .dataResume 64#7 ∧ decodeByte one 0b01111111#8 = .dataFirst 127#7 ∧
  decodeByte two 0b00000000#8 = .dataSecond 0#7 ∧ decodeByte idle 0b00111100#8 = .dataStray 60#7 ∧
  decodeByte blockAborts 0b00000001#8 = .dataInBlock 1#7 ∧
  -- format PKT, `cn` in bits 7:4 and `cin` in bits 3:0 of the first byte
  decodePacket { p0 := 0x19#8, p1 := 0x94#8, p2 := 0x40#8, p3 := 0x7F#8 } = .pktNoteOn 1#4 0x94#8 0x40#8 0x7F#8 ∧
  decodePacket { p0 := 0x0F#8, p1 := 0xF8#8, p2 := 0x00#8, p3 := 0x00#8 } = .pktSingleByte 0#4 0xF8#8 0x00#8 0x00#8 ∧
  decodePacket { p0 := 0xF4#8, p1 := 0xF0#8, p2 := 0x01#8, p3 := 0x02#8 } = .pktCin4 15#4 0xF0#8 0x01#8 0x02#8 ∧
  -- format ENC, by the status byte of the message
  decodeMessage { raw := [0xF2#8, 0x10#8, 0x02#8] } = .ok (.encSysF2 0x10#7 0x02#7) ∧
  decodeMessage { raw := [0xFA#8] } = .ok (.encRealTime 2#3) ∧
  decodeMessage { raw := [0xC2#8, 0x05#8] } = .ok (.encChannelVoice { raw := [0xC2#8, 0x05#8] }) ∧
  decodeMessage { raw := [0xF4#8] } = .error (.noKind 0xF4#8) ∧
  decodeMessage { raw := [] } = .error .nullMessage

/-- No bit of an encoding is dropped: the bytes of a well-formed instruction, decoded in a parser context in which its row
is the selected one, give it back with every operand, and in the two input streams whatever bytes follow are left over
(spec/30_encoding.md R81 to R84, R91, R100). -/
def Obligations.DecodeUndoesEncode : Prop :=
  ∀ (i : Instr) (ctx : DecodeCtx) (f : Format) (bytes : List Byte),
    i.wf = true → rowSelected ctx i = true → encode i = some (f, bytes) →
      decodeFormat ctx f bytes = .ok (i, []) ∧
        (f ≠ .encoder → ∀ rest, decodeFormat ctx f (bytes ++ rest) = .ok (i, rest))

/-- Every controller-stream byte, in every parser context, selects exactly one row, and so does every packet: nothing in
the two input spaces is rejected and nothing is ambiguous (spec/30_encoding.md R80, R95, R96, R100). The encoder's space
takes exactly the Messages of spec/10_state.md R30 (spec/42_codec.md R191). -/
def Obligations.EveryWordSelectsOneRow : Prop :=
  (∀ (ctx : DecodeCtx) (b : Byte),
    (decodeByte ctx b).wf = true ∧ rowSelected ctx (decodeByte ctx b) = true ∧
      encode (decodeByte ctx b) = some (.stream, [b]) ∧
      ∀ i, i.wf = true → rowSelected ctx i = true → encode i = some (.stream, [b]) → i = decodeByte ctx b) ∧
  (∀ p : Packet,
    (decodePacket p).wf = true ∧ encode (decodePacket p) = some (.packet, [p.p0, p.p1, p.p2, p.p3]) ∧
      ∀ i, encode i = some (.packet, [p.p0, p.p1, p.p2, p.p3]) → i = decodePacket p) ∧
  (∀ m : Message,
    (msgOk m = true → ∃ i, decodeMessage m = .ok i ∧ i.wf = true ∧ encode i = some (.encoder, m.raw)) ∧
      (msgOk m = false → ∃ e, decodeMessage m = .error e))

/-! ### Steps -/

/-- A step of `A_POLL` runs the instruction its input decodes to: in the ring phase the byte at `rb_rd`, popped and read in
the parser's context; in the host phase the packet at the front of `host_in`, removed (spec/45_poll_loop.md R240, R241,
R244). With nothing to fetch, because the ring is empty in the ring phase or no packet waits in the host phase, and when
`A_POLL` is not free, the step is `POLL`'s own (`RING_DONE` and `HOST_DONE` of R244 among them). An empty schedule is a
turn of `A_POLL` (the model's, notes/assumptions/5.md). -/
def Obligations.StepRunsTheDecodedWord : Prop :=
  ∀ s : State, s.env.sched = [] →
    (pollFree s = true → s.seq.phase = .ring → s.ring.wr ≠ s.ring.rd →
      step s = exec (decodeByte (decodeCtx s) (ringRead s s.ring.rd))
        { s with ring := { s.ring with rd := (s.ring.rd + 1) % 2 ^ s.config.rbLog } }) ∧
    (∀ p rest, pollFree s = true → s.seq.phase = .host → s.env.hostIn = p :: rest →
      step s = exec (decodePacket p) { s with env := { s.env with hostIn := rest } }) ∧
    (pollFree s = true → s.seq.phase = .ring → s.ring.wr = s.ring.rd → step s = exec .poll s) ∧
    (pollFree s = true → s.seq.phase = .host → s.env.hostIn = [] → step s = exec .poll s) ∧
    (pollFree s = false → step s = exec .poll s)

/-- A step takes the turn at the head of the schedule (the model's own, notes/assumptions/5.md): the agent it names steps,
or the environment does what spec/45_poll_loop.md R245 and spec/10_state.md R46 allow it, or names the transport that
cannot be acquired (the model's, notes/assumptions/18.md). `u` is `s` with the turn taken off. -/
def Obligations.StepTakesTheScheduledTurn : Prop :=
  ∀ (s : State) (t : Turn) (ts : List Turn), s.env.sched = t :: ts →
    let u : State := { s with env := { s.env with sched := ts } }
    (t = .poll → step s = exec .poll u) ∧
    (∀ i, t = .run i → step s = exec i u) ∧
    (∀ gap, t = .init gap → step s = exec (.init s.env.transportOk gap) u) ∧
    (t = .rx → s.env.serialIn = [] → step s = .next u) ∧
    (∀ b rest, t = .rx → s.env.serialIn = b :: rest →
      step s = exec (.push b) { u with env := { u.env with serialIn := rest } }) ∧
    (∀ d, t = .advance d → s.env.now.toNat + d.toNat < 2 ^ 64 →
      step s = .next { u with env := { u.env with now := s.env.now + d } }) ∧
    (∀ d, t = .advance d → 2 ^ 64 ≤ s.env.now.toNat + d.toNat → step s = .fault .timeBaseEnd) ∧
    (∀ p, t = .hostArrive p → step s = .next { u with env := { u.env with hostIn := s.env.hostIn ++ [p] } }) ∧
    (∀ v, t = .hostReady v → step s = .next { u with env := { u.env with hostReady := v } }) ∧
    (∀ b, t = .serialArrive b → step s = .next { u with env := { u.env with serialIn := s.env.serialIn ++ [b] } }) ∧
    (∀ v, t = .transportOk v → step s = .next { u with env := { u.env with transportOk := v } }) ∧
    (∀ w, t = .transportFailed w → step s = .next { u with env := { u.env with failedTransport := w } })

/-- `now` never decreases, and no instruction writes it (spec/10_state.md R45). -/
def Obligations.TimeNeverGoesBack : Prop :=
  (∀ s t : State, step s = .next t → s.env.now ≤ t.env.now) ∧
  (∀ (i : Instr) (s t : State), exec i s = .next t → t.env.now = s.env.now)

/-! ### Reset and invariants -/

/-- The values spec/10_state.md R52 gives after reset (most of them the spec's own decision D26), whatever the OPEN
parameters; and that the block then does nothing until `INIT`: no instruction but that and `MAP_REPLACE`, which acts at
any time, changes anything in that state. What R52 leaves unspecified is not stated. -/
def Obligations.ResetValues : Prop :=
  ∀ c : Config,
    let s := State.resetWith c
    s.config = c ∧ s.ring.wr = 0 ∧ s.ring.rd = 0 ∧ s.ring.overflow = 0#32 ∧ s.parser.st = .idle ∧
    s.parser.rsValid = false ∧ s.parser.accLen = 0 ∧ s.parser.accNeed = 0 ∧ s.mbx.full = false ∧
    (∀ k (h : k < 16), s.chmap.map[k] = if k < 5 then BitVec.ofNat 8 k else 0xFF#8) ∧
    (∀ k (h : k < nInt), s.chmap.enable[k] = true) ∧
    s.rtDrop = 0#32 ∧ s.link.lastValid = false ∧ s.link.minGapUs = 500#64 ∧ s.link.byteCount = 0#32 ∧
    s.link.hwq = [] ∧ s.seq.txPend = [] ∧ s.seq.phase = .ring ∧ s.active = false ∧ s.initFail = false ∧
    (∀ i t, exec i s = .next t → (∃ ok gap, i = .init ok gap) ∨ (∃ map enable, i = .mapReplace map enable) ∨ t = s)

/-- The invariants hold right after reset, for every legal choice of the OPEN parameters and for `State.reset`
(spec/10_state.md R51, R52). -/
def Obligations.ResetMeetsInvariants : Prop :=
  (∀ c : Config, c.wf = true → StateInv (State.resetWith c)) ∧
  (∀ c : Config, LinkInv (State.resetWith c) ∧ PacingInv (State.resetWith c) ∧ CounterInv (State.resetWith c)) ∧
  State.reset = State.resetWith Config.vectors ∧ Config.vectors.wf = true

/-- Every step keeps the invariants of spec/10_state.md R51: the parser's rows, the ring's range and canonical form, the
bounds of `hwq` and `tx_pend`, and the mailbox holding a Message. -/
def Obligations.StepKeepsStateInv : Prop := ∀ s t : State, StateInv s → step s = .next t → StateInv t

/-- Every step keeps `link_out ++ hwq` equal to the bytes enqueued, and `lt_byte_count` their number
(spec/44_link_tx.md R223). -/
def Obligations.StepKeepsLinkInv : Prop := ∀ s t : State, LinkInv s → step s = .next t → LinkInv t

/-- Every step keeps consecutive enqueue instants at least `lt_min_gap_us` apart (spec/44_link_tx.md R222). -/
def Obligations.StepKeepsPacingInv : Prop := ∀ s t : State, PacingInv s → step s = .next t → PacingInv t

/-- Every step keeps the two loss counters equal to the number of their events, modulo 2^32
(spec/60_exceptions.md R260, codes 1 and 8; spec/10_state.md R24, R37). -/
def Obligations.StepKeepsCounterInv : Prop := ∀ s t : State, CounterInv s → step s = .next t → CounterInv t

/-- The document's pacing test: the span from the first to the last of N enqueues is at least (N-1) gaps
(spec/44_link_tx.md R222). -/
def Obligations.SendsSpanTheGaps : Prop :=
  ∀ (s : State) (a b : Time × Byte), PacingInv s → s.out.sent.head? = some a → s.out.sent.getLast? = some b →
    a.1.toNat + (s.out.sent.length - 1) * s.link.minGapUs.toNat ≤ b.1.toNat

/-! ### The ring buffer -/

/-- `PUSH` (spec/40_ring_buffer.md R110): on a full ring the overflow counter counts, the event is recorded and nothing is
stored; otherwise the byte is stored at `rb_wr`, which advances. Every other byte of the storage reads as before. -/
def Obligations.PushStoresOrCounts : Prop :=
  ∀ (s : State) (b : Byte), RingInv s → s.active = true →
    ((s.ring.wr + 1) % 2 ^ s.config.rbLog = s.ring.rd →
      exec (.push b) s = .next { s with
        ring := { s.ring with overflow := s.ring.overflow + 1#32 }
        out := { s.out with events := s.out.events ++ [.ringOverflow b] } }) ∧
    ((s.ring.wr + 1) % 2 ^ s.config.rbLog ≠ s.ring.rd →
      ∃ mem : Memory,
        exec (.push b) s =
          .next { s with ring := { s.ring with mem := mem, wr := (s.ring.wr + 1) % 2 ^ s.config.rbLog } } ∧
        mem.wf ∧ mem.read (ringIndex s s.ring.wr) = b ∧
        ∀ a, a ≠ ringIndex s s.ring.wr → mem.read a = s.ring.mem.read a)

/-- `POP` (spec/40_ring_buffer.md R112): nothing from an empty ring; otherwise the byte at `rb_rd`, which advances. Where
the answer stands is the model's (notes/assumptions/10.md). -/
def Obligations.PopTakesTheOldest : Prop :=
  ∀ s : State, pollFree s = true →
    (s.ring.rd = s.ring.wr → exec .pop s = .next { s with out := { s.out with resp := .popped none } }) ∧
    (s.ring.rd ≠ s.ring.wr →
      exec .pop s = .next { s with
        ring := { s.ring with rd := (s.ring.rd + 1) % 2 ^ s.config.rbLog }
        out := { s.out with resp := .popped (some (ringRead s s.ring.rd)) } })

/-- The derived quantities of spec/10_state.md R25, with the spec's own decision D1 that the ring is full at
`RB_CAP - 1` bytes: the count lies in `0 .. RB_CAP-1`, the ring is full one below its
capacity and empty at zero, and the held bytes are those from `rb_rd` on. -/
def Obligations.RingFullOneBelowCapacity : Prop :=
  ∀ s : State, RingInv s →
    ((ringCount s : Int) = ((s.ring.wr : Int) - s.ring.rd) % (2 ^ s.config.rbLog : Nat)) ∧
    ringCount s ≤ 2 ^ s.config.rbLog - 1 ∧
    (ringEmpty s = true ↔ s.ring.wr = s.ring.rd) ∧ (ringEmpty s = true ↔ ringCount s = 0) ∧
    (ringFull s = true ↔ (s.ring.wr + 1) % 2 ^ s.config.rbLog = s.ring.rd) ∧
    (ringFull s = true ↔ ringCount s = 2 ^ s.config.rbLog - 1) ∧
    (ringHeld s).length = ringCount s ∧
    ∀ k (h : k < (ringHeld s).length), (ringHeld s)[k] = s.ring.mem.read ((s.ring.rd + k) % 2 ^ s.config.rbLog)

/-- The ring is a FIFO across contexts (spec/20_memory.md R71, spec/40_ring_buffer.md R111): an accepted `PUSH` appends to
the held bytes, a rejected one leaves them, and `POP` takes their front. The latch that holds the answer of `POP` is the
model's (notes/assumptions/10.md). -/
def Obligations.RingIsFifo : Prop :=
  ∀ s : State, RingInv s →
    (∀ b, s.active = true → ringFull s = false →
      ∃ t, exec (.push b) s = .next t ∧ ringHeld t = ringHeld s ++ [b] ∧ RingInv t) ∧
    (∀ b, s.active = true → ringFull s = true →
      ∃ t, exec (.push b) s = .next t ∧ ringHeld t = ringHeld s ∧ RingInv t) ∧
    (pollFree s = true → ringEmpty s = false →
      ∃ b t, exec .pop s = .next t ∧ t.out.resp = .popped (some b) ∧ ringHeld s = b :: ringHeld t ∧ RingInv t)

/-- The document's overflow test (spec/40_ring_buffer.md R116, for any number of rejected pushes): after `RB_CAP - 1` pushes
into an empty ring and any more, the drop counter has gone up by exactly the number of the rejected ones, and popping
yields the accepted bytes in order. The answer of `POP` is read from the model's latch (notes/assumptions/10.md). -/
def Obligations.FullRingKeepsOrder : Prop :=
  ∀ (s : State) (bs xs : List Byte), RingInv s → pollFree s = true → ringEmpty s = true →
    bs.length = 2 ^ s.config.rbLog - 1 →
      ∃ t, runInstrs (bs.map .push ++ xs.map .push) s = .next t ∧ ringHeld t = bs ∧
        t.ring.overflow = s.ring.overflow + BitVec.ofNat 32 xs.length ∧
        ∀ k (h : k < bs.length),
          ∃ u, runInstrs (List.replicate (k + 1) .pop) t = .next u ∧ u.out.resp = .popped (some bs[k])

/-! ### Ownership and frames -/

/-- The ownership of state of spec/60_exceptions.md R280, over all instructions: each piece of state is written by its own
context's operations only. `hwq` is split: `A_POLL` appends at its back, `A_LINK` removes at most its front, and the other
contexts leave it. -/
def Obligations.OnlyOwnersWrite : Prop :=
  ∀ (i : Instr) (s t : State), exec i s = .next t →
    t.config = s.config ∧
    ((∀ b, i ≠ .push b) →
      (∀ a, t.ring.mem.read a = s.ring.mem.read a) ∧ t.ring.mem = s.ring.mem ∧ t.ring.wr = s.ring.wr ∧
        t.ring.overflow = s.ring.overflow) ∧
    ((∀ map enable, i ≠ .mapReplace map enable) → t.chmap = s.chmap) ∧
    ((∀ ok gap, i ≠ .init ok gap) →
      t.active = s.active ∧ t.initFail = s.initFail ∧ t.link.minGapUs = s.link.minGapUs) ∧
    (i ≠ .linkPop → t.out.linkOut = s.out.linkOut) ∧
    ((∃ b, i = .push b) ∨ (∃ map enable, i = .mapReplace map enable) ∨ (∃ ok gap, i = .init ok gap) ∨ i = .linkPop →
      t.ring.rd = s.ring.rd ∧ t.parser = s.parser ∧ t.mbx = s.mbx ∧ t.rtDrop = s.rtDrop ∧ t.seq = s.seq ∧
        t.link.lastUs = s.link.lastUs ∧ t.link.lastValid = s.link.lastValid ∧ t.link.byteCount = s.link.byteCount ∧
        t.env = s.env ∧ t.out.hostOut = s.out.hostOut ∧ t.out.pulseOut = s.out.pulseOut ∧ t.out.sent = s.out.sent) ∧
    ((∃ b, i = .push b) ∨ (∃ map enable, i = .mapReplace map enable) ∨ (∃ ok gap, i = .init ok gap) →
      t.link.hwq = s.link.hwq) ∧
    (i ≠ .linkPop → ∃ bs, t.link.hwq = s.link.hwq ++ bs) ∧
    (i = .linkPop → t.link.hwq = s.link.hwq ∨ ∃ b, s.link.hwq = b :: t.link.hwq) ∧
    (i ≠ .poll → t.env = s.env)

/-- What the rows of the two input streams leave unchanged. A byte of the stream, whatever its row, writes the parser, the
mailbox, the drop counter, `tx_pend`, `host_out` and the event log only. A packet also leaves the parser, the mailbox and
`host_out` as they are: there is no loop-back (spec/43_router.md R203). -/
def Obligations.StreamAndPacketFrames : Prop :=
  ∀ (i : Instr) (f : Format) (bytes : List Byte) (s t : State), encode i = some (f, bytes) → f ≠ .encoder →
    exec i s = .next t →
      (∀ a, t.ring.mem.read a = s.ring.mem.read a) ∧ t.ring = s.ring ∧ t.config = s.config ∧ t.chmap = s.chmap ∧
      t.link = s.link ∧ t.seq.phase = s.seq.phase ∧ t.seq.calls = s.seq.calls ∧ t.seq.flushT0 = s.seq.flushT0 ∧
      t.active = s.active ∧ t.initFail = s.initFail ∧ t.env = s.env ∧ t.out.linkOut = s.out.linkOut ∧
      t.out.pulseOut = s.out.pulseOut ∧ t.out.sent = s.out.sent ∧ t.out.resp = s.out.resp ∧
      (∃ es, t.out.events = s.out.events ++ es) ∧ (∃ ps, t.out.hostOut = s.out.hostOut ++ ps) ∧
      (f = .packet → t.parser = s.parser ∧ t.mbx = s.mbx ∧ t.out.hostOut = s.out.hostOut)

/-! ### Configuration -/

/-- `MAP_REPLACE` (spec/43_router.md R208): one swap of the whole map with its enables, at any time, `active` or not; every
entry value is stored, and one that is not below `N_INT` acts as disabled: `ROUTE` (R202) drops a message of that channel
by policy, and the drop is counted (R204). That a reserved entry value acts as disabled (spec/10_state.md R34) is the
spec's own decision D5, and that the drop counts is its decision D17. -/
def Obligations.MapReplaceSwapsWhole : Prop :=
  ∀ (s : State) (map : Vector Byte 16) (enable : Vector Bool nInt),
    ∃ t, exec (.mapReplace map enable) s = .next t ∧ t = { s with chmap := { map := map, enable := enable } } ∧
      ∀ m, msgIsVoice m = true → pollFree s = true → nInt ≤ (map[(loNibble (msgStatus m)).toNat]).toNat →
        ∃ u, exec (.route m) t = .next u ∧ u.seq.txPend = [] ∧ u.rtDrop = s.rtDrop + 1#32

/-- `INIT` (spec/70_reset_and_hazards.md R302), before activation and with no earlier failure: it activates the data path
with the configured gap, 500 where none is given, or it fails. One Boolean for all the transports is the spec's decision
D27; that the event's recorded value is the transport the environment names is the model's (notes/assumptions/18.md). -/
def Obligations.InitActivatesOrFails : Prop :=
  ∀ (s : State) (gap : Option Time), s.active = false → s.initFail = false →
    exec (.init true gap) s =
      .next { s with link := { s.link with minGapUs := gap.getD 500#64 }, active := true } ∧
    exec (.init false gap) s =
      .next { s with initFail := true, out := { s.out with events := s.out.events ++ [.initFailure s.env.failedTransport] } }

/-- While `active` is 0 the only steps are `MAP_REPLACE`, `INIT` and the environment's
(spec/70_reset_and_hazards.md R304): no byte is pushed, popped, parsed, decoded, routed or sent. That an instruction
which is not enabled answers the same state, and that `LINK_POP` is among them, is the model's
(notes/assumptions/7.md, notes/assumptions/23.md). -/
def Obligations.InactiveBlockStaysStill : Prop :=
  (∀ (i : Instr) (s t : State), s.active = false → exec i s = .next t → (∀ ok gap, i ≠ .init ok gap) →
    (∀ map enable, i ≠ .mapReplace map enable) → t = s) ∧
  (∀ (i : Instr) (s : State), s.active = false → i.wf = true → ∃ t, exec i s = .next t)

/-- `INIT` happens once: activated or failed, the block takes no further one (spec/45_poll_loop.md R245; that a step which
is not enabled changes nothing is the model's, notes/assumptions/7.md). After a failed one the block stays so for good
(spec/70_reset_and_hazards.md R304): every step, whatever the schedule, leaves all of its state but the Channel Map, and a
packet that waits in `host_in` is never read. -/
def Obligations.InitHappensOnce : Prop :=
  (∀ (s : State) (ok : Bool) (gap : Option Time), s.active = true ∨ s.initFail = true →
    exec (.init ok gap) s = .next s) ∧
  (∀ s t : State, s.active = false → s.initFail = true → step s = .next t →
    t.active = false ∧ t.initFail = true ∧ t.config = s.config ∧ t.ring = s.ring ∧ t.parser = s.parser ∧
    t.mbx = s.mbx ∧ t.rtDrop = s.rtDrop ∧ t.link = s.link ∧ t.seq = s.seq ∧ t.out = s.out ∧
    ∃ qs, t.env.hostIn = s.env.hostIn ++ qs)

/-! ### The parser -/

/-- A channel-voice status byte outside a system block (spec/41_parser.md R121 with the counts of R122 to R128): it becomes
the running status and the accumulator, and abandons a partly collected message. -/
def Obligations.VoiceStatusBecomesRunningStatus : Prop :=
  ∀ (s : State) (i : Instr) (b : Byte) (n : Nat) (ch : Nibble),
    (i, b, n) ∈ ([(.noteOffStatus ch, joinNibbles 0x8#4 ch, 2), (.noteOnStatus ch, joinNibbles 0x9#4 ch, 2),
      (.polyPressureStatus ch, joinNibbles 0xA#4 ch, 2), (.controlChangeStatus ch, joinNibbles 0xB#4 ch, 2),
      (.programChangeStatus ch, joinNibbles 0xC#4 ch, 1), (.channelPressureStatus ch, joinNibbles 0xD#4 ch, 1),
      (.pitchBendStatus ch, joinNibbles 0xE#4 ch, 2)] : List (Instr × Byte × Nat)) →
    pollFree s = true → s.parser.st ≠ .ignoringSystemBlock →
      exec i s = .next { s with
        parser :=
          { st := .collectingData1, rsValid := true, rsStatus := b, accRaw := s.parser.accRaw.set 0 b, accLen := 1, accNeed := n }
        out := { s.out with events := s.out.events ++ abandonedEvents s.parser } }

/-- The system-common status bytes outside a block (spec/41_parser.md R130 with R131 to R136 and R138): each abandons a
partly collected message and clears running status; `F1`, `F2`, `F3` load the accumulator, `F0` opens a block, and `F4`,
`F5`, `F7` are recorded as undefined. Nothing is emitted. For `F4`, `F5` and a stray `F7` the way to `Idle` and the event
are the spec's own decision D6. -/
def Obligations.SystemStatusClearsRunningStatus : Prop :=
  ∀ s : State, pollFree s = true → s.parser.st ≠ .ignoringSystemBlock →
    (∀ (i : Instr) (b : Byte) (n : Nat),
      (i, b, n) ∈ ([(.sysF1, 0xF1#8, 1), (.sysF2, 0xF2#8, 2), (.sysF3, 0xF3#8, 1)] : List (Instr × Byte × Nat)) →
        exec i s = .next { s with
          parser :=
            { s.parser with
              st := .collectingData1, rsValid := false, accRaw := s.parser.accRaw.set 0 b, accLen := 1, accNeed := n }
          out := { s.out with events := s.out.events ++ abandonedEvents s.parser } }) ∧
    exec .sysexStart s = .next { s with
      parser := { s.parser with st := .ignoringSystemBlock, rsValid := false, accLen := 0, accNeed := 0 }
      out := { s.out with events := s.out.events ++ abandonedEvents s.parser } } ∧
    (∀ (i : Instr) (b : Byte),
      (i, b) ∈ ([(.undefF4, 0xF4#8), (.undefF5, 0xF5#8), (.strayF7, 0xF7#8)] : List (Instr × Byte)) →
        exec i s = .next { s with
          parser := { s.parser with st := .idle, rsValid := false, accLen := 0, accNeed := 0 }
          out := { s.out with events := s.out.events ++ (abandonedEvents s.parser ++ [.undefinedStatus b]) } })

/-- `F6` outside a block (spec/41_parser.md R137): the accumulator empties, running status is clear, and the one-byte
message is delivered at once. -/
def Obligations.TuneRequestCompletes : Prop :=
  ∀ s : State, pollFree s = true → s.parser.st ≠ .ignoringSystemBlock →
    ∃ t, exec (.deliver { raw := [0xF6#8] }) { s with
        parser := { s.parser with st := .idle, rsValid := false, accLen := 0, accNeed := 0 }
        out := { s.out with events := s.out.events ++ abandonedEvents s.parser } } = .next t ∧
      exec .tuneRequest s = .next t

/-- A real-time byte, in any parser state (spec/41_parser.md R129): its one-byte message is delivered, and the parser is
left as it was. That it takes the path of `DELIVER` is the spec's own decision D10. -/
def Obligations.RealTimeDeliversAtOnce : Prop :=
  ∀ (s : State) (i : Instr) (b : Byte),
    (i, b) ∈ ([(.rtF8, 0xF8#8), (.rtF9, 0xF9#8), (.rtFA, 0xFA#8), (.rtFB, 0xFB#8), (.rtFC, 0xFC#8), (.rtFD, 0xFD#8),
      (.rtFE, 0xFE#8), (.rtFF, 0xFF#8)] : List (Instr × Byte)) →
    pollFree s = true →
      ∃ t, exec (.deliver { raw := [b] }) s = .next t ∧ exec i s = .next t ∧ t.parser = s.parser

/-- A byte `< 0xF8` in a system block (spec/41_parser.md R140), as `PARSE` of it and as the row the byte selects there:
`F7` ends the block; with `SYSEX_STATUS_ABORTS` another status byte ends it and is then handled as outside; every other
byte is discarded. -/
def Obligations.BlockBytesAreDiscarded : Prop :=
  ∀ (s : State) (b : Byte) (i : Instr), b < 0xF8#8 → s.parser.st = .ignoringSystemBlock → pollFree s = true →
    (i = .parse b ∨ (encode i = some (.stream, [b]) ∧ rowSelected (decodeCtx s) i = true)) →
      (b = 0xF7#8 → exec i s = .next { s with parser := { s.parser with st := .idle } }) ∧
      (b ≠ 0xF7#8 → 0x80#8 ≤ b → s.config.sysexAborts = true →
        ∃ t, exec (.parse b) { s with parser := { s.parser with st := .idle } } = .next t ∧ exec i s = .next t) ∧
      (b ≠ 0xF7#8 → b < 0x80#8 ∨ s.config.sysexAborts = false →
        exec i s = .next { s with out := { s.out with events := s.out.events ++ [.sysexDiscard b] } })

/-- A data byte in `Idle` under running status (spec/41_parser.md R145): the accumulator is loaded from `rs_status`, and
the byte is then handled by R146. -/
def Obligations.DataByteResumes : Prop :=
  ∀ (s : State) (v : Data7) (n : Nat) (i : Instr), pollFree s = true → s.parser.st = .idle → s.parser.rsValid = true →
    nd s.parser.rsStatus = some n → i = .dataResume v ∨ i = .parse (dataByte v) →
      ∃ t, exec (.dataFirst v) { s with
          parser :=
            { s.parser with
              st := .collectingData1, accRaw := s.parser.accRaw.set 0 s.parser.rsStatus, accLen := 1, accNeed := n } } =
            .next t ∧
        exec i s = .next t

/-- The first data byte (spec/41_parser.md R146): stored; the message completes where one was needed, and is delivered with
the accumulator emptied and running status untouched; otherwise the second is awaited. -/
def Obligations.DataByteFirst : Prop :=
  ∀ (s : State) (v : Data7) (i : Instr), pollFree s = true → s.parser.st = .collectingData1 → ParserInv s.parser →
    i = .dataFirst v ∨ i = .parse (dataByte v) →
      (s.parser.accNeed = 1 →
        ∃ t, exec (.deliver { raw := [s.parser.accRaw[0], dataByte v] }) { s with
            parser :=
              { s.parser with st := .idle, accRaw := s.parser.accRaw.set 1 (dataByte v), accLen := 0, accNeed := 0 } } =
              .next t ∧
          exec i s = .next t) ∧
      (s.parser.accNeed ≠ 1 →
        exec i s = .next { s with
          parser :=
            { s.parser with
              st := .collectingData2, accRaw := s.parser.accRaw.set 1 (dataByte v), accLen := 2
              accNeed := s.parser.accNeed - 1 } })

/-- The second data byte (spec/41_parser.md R147, R149): the message always completes; a note-on whose second value is 0 is
delivered as the note-off of its channel and note; running status is untouched. That the raw status byte is rewritten is
the spec's own decision D9. -/
def Obligations.DataByteSecond : Prop :=
  ∀ (s : State) (v : Data7) (i : Instr), pollFree s = true → s.parser.st = .collectingData2 → ParserInv s.parser →
    i = .dataSecond v ∨ i = .parse (dataByte v) →
      let status : Byte :=
        if hiNibble s.parser.accRaw[0] = 0x9#4 ∧ v = 0#7 then 0x80#8 ||| (s.parser.accRaw[0] &&& 0x0F#8)
        else s.parser.accRaw[0]
      ∃ t, exec (.deliver { raw := [status, s.parser.accRaw[1], dataByte v] }) { s with
          parser :=
            { s.parser with st := .idle, accRaw := s.parser.accRaw.set 2 (dataByte v), accLen := 0, accNeed := 0 } } =
            .next t ∧
        exec i s = .next t

/-- A stray data byte (spec/41_parser.md R148): discarded, with its event and no other change. -/
def Obligations.StrayDataIsDiscarded : Prop :=
  ∀ (s : State) (v : Data7) (i : Instr), pollFree s = true → s.parser.st = .idle → s.parser.rsValid = false →
    i = .dataStray v ∨ i = .parse (dataByte v) →
      exec i s = .next { s with out := { s.out with events := s.out.events ++ [.strayData (dataByte v)] } }

/-- `PARSE` runs the one row its byte selects in the parser's context (spec/41_parser.md R120, spec/30_encoding.md R100),
and a row executed outside its context is handled as its byte is (the model's, notes/assumptions/12.md). -/
def Obligations.ParseRunsItsRow : Prop :=
  ∀ (s : State) (b : Byte),
    exec (.parse b) s = exec (decodeByte (decodeCtx s) b) s ∧
    (∀ i, encode i = some (.stream, [b]) → exec i s = exec (.parse b) s) ∧
    (pollFree s = true → ∃ t, exec (.parse b) s = .next t)

/-- Running status (spec/30_encoding.md R87): a data byte in `Idle` under running status is decoded as if the running
status byte had come immediately before it, in everything it does. -/
def Obligations.RunningStatusExpands : Prop :=
  ∀ (s : State) (v : Data7), pollFree s = true → ParserInv s.parser → s.parser.st = .idle → s.parser.rsValid = true →
    ∃ t, runInstrs [.parse (dataByte v)] s = .next t ∧
      runInstrs [.parse s.parser.rsStatus, .parse (dataByte v)] s = .next t

/-- Resynchronisation (spec/41_parser.md R162): outside a system block, an explicit complete message is delivered whatever
came before. The mailbox holds it, normalised, the parser is in `Idle` with nothing collected, and the mirror has sent it. -/
def Obligations.ResyncExplicitMessage : Prop :=
  ∀ (s : State) (b : Byte) (vs : List Data7), pollFree s = true → s.parser.st ≠ .ignoringSystemBlock →
    isChannelVoice b = true ∨ b = 0xF1#8 ∨ b = 0xF2#8 ∨ b = 0xF3#8 → nd b = some vs.length →
      ∃ t, runInstrs (.parse b :: vs.map (fun v => .parse (dataByte v))) s = .next t ∧
        t.mbx = { full := true, msg := { raw := normalise (b :: vs.map dataByte) } } ∧
        t.parser.st = .idle ∧ t.parser.accLen = 0 ∧ t.parser.rsValid = isChannelVoice b ∧
        (s.env.hostReady = true →
          t.out.hostOut = s.out.hostOut ++ [encodeMsg { raw := normalise (b :: vs.map dataByte) }])

/-- Sysex opacity (spec/30_encoding.md R89, spec/41_parser.md R131, R140): from `F0` to `F7`, with data bytes between, or
any bytes that are neither `F7` nor real-time where status bytes do not abort, nothing is emitted: the parser ends empty in
`Idle` without running status, the discarded bytes are in the event log, and nothing else has changed. -/
def Obligations.SysexIsOpaque : Prop :=
  ∀ (s : State) (bs : List Byte), pollFree s = true → s.parser.st ≠ .ignoringSystemBlock →
    (∀ b ∈ bs, b < 0x80#8 ∨ (s.config.sysexAborts = false ∧ b < 0xF7#8)) →
      runInstrs (.parse 0xF0#8 :: bs.map .parse ++ [.parse 0xF7#8]) s = .next { s with
        parser := { s.parser with st := .idle, rsValid := false, accLen := 0, accNeed := 0 }
        out := { s.out with events := s.out.events ++ (abandonedEvents s.parser ++ bs.map .sysexDiscard) } }

/-! ### Delivery and the router -/

/-- `DELIVER` (spec/41_parser.md R150): the listener first, then the mailbox, where the latest wins and an unread message
that is lost is recorded. The order of the two is the spec's own decision D11. -/
def Obligations.DeliverLatestWins : Prop :=
  ∀ (s : State) (m : Message), pollFree s = true → msgOk m = true →
    ∃ u, exec (.onParserMessage m) s = .next u ∧ u.mbx = s.mbx ∧
      exec (.deliver m) s = .next { u with
        mbx := { full := true, msg := m }
        out := { u.out with events := u.out.events ++ overwriteEvents s } }

/-- `ON_PARSER_MESSAGE` (spec/43_router.md R200): `MIRROR`, then `ROUTE`, in the order of the spec's own decision D15. -/
def Obligations.ListenerMirrorsThenRoutes : Prop :=
  ∀ (s : State) (m : Message), pollFree s = true → msgOk m = true →
    ∃ t, runInstrs [.mirror m, .route m] s = .next t ∧ exec (.onParserMessage m) s = .next t

/-- `MIRROR` (spec/43_router.md R201): with a session the packet `ENCODE` gives is sent; without one the message is dropped,
with its event and no counter. That `ENCODE` answers on a latch is the model's (notes/assumptions/10.md). -/
def Obligations.MirrorSendsOrDrops : Prop :=
  ∀ (s : State) (m : Message), pollFree s = true → msgOk m = true →
    (s.env.hostReady = true →
      ∃ p, exec (.encode m) s = .next { s with out := { s.out with resp := .encoded p } } ∧
        exec (.mirror m) s = .next { s with out := { s.out with hostOut := s.out.hostOut ++ [p] } }) ∧
    (s.env.hostReady = false →
      exec (.mirror m) s = .next { s with out := { s.out with events := s.out.events ++ [.hostNotReady m] } })

/-- `ROUTE` (spec/43_router.md R202): a message that is not channel-voice has no effect; a channel-voice one is dropped by
policy where its channel's entry is not below `N_INT` or that id is not enabled, and forwarded to the id otherwise. That a
reserved entry value acts as disabled is the spec's own decision D5. A drop has the effect of `POLICY_DROP` (R204), which
counts: the spec's own decision D17 (spec/90_conflicts.md C2), against the document's words that a drop has no side
effect. -/
def Obligations.RouteByMap : Prop :=
  ∀ (s : State) (m : Message), pollFree s = true → msgOk m = true →
    (isChannelVoice (msgStatus m) = false → exec (.route m) s = .next s) ∧
    (isChannelVoice (msgStatus m) = true →
      ∃ t, exec (.route m) s = .next t ∧
        if h : (s.chmap.map[(loNibble (msgStatus m)).toNat]).toNat < nInt then
          if s.chmap.enable[(s.chmap.map[(loNibble (msgStatus m)).toNat]).toNat] = true then
            exec (.forward m ⟨(s.chmap.map[(loNibble (msgStatus m)).toNat]).toNat, h⟩) s = .next t
          else exec (.policyDrop m) s = .next t
        else exec (.policyDrop m) s = .next t)

/-- `ON_HOST_MESSAGE` (spec/43_router.md R203): `ROUTE` and nothing else: no mirror, no mailbox write, no parser state. -/
def Obligations.HostMessageIsRoutedOnly : Prop :=
  ∀ (s : State) (m : Message), pollFree s = true → msgOk m = true →
    ∃ t, exec (.route m) s = .next t ∧ exec (.onHostMessage m) s = .next t ∧ t.out.hostOut = s.out.hostOut ∧
      t.mbx = s.mbx ∧ t.parser = s.parser

/-- `POLICY_DROP` (spec/43_router.md R204): the drop counter and the event are its whole effect. That it counts is the
spec's own decision D17. -/
def Obligations.PolicyDropCounts : Prop :=
  ∀ (s : State) (m : Message), pollFree s = true → msgIsVoice m = true →
    exec (.policyDrop m) s = .next { s with
      rtDrop := s.rtDrop + 1#32
      out := { s.out with events := s.out.events ++ [.policyDrop m] } }

/-- `FORWARD` (spec/43_router.md R205, spec/30_encoding.md R94): `tx_pend` takes the message's bytes, the status byte with
its upper nibble kept and its low nibble the internal-channel id. -/
def Obligations.ForwardRewritesTheNibble : Prop :=
  ∀ (s : State) (m : Message) (e : Fin nInt), pollFree s = true → msgIsVoice m = true →
    ∃ b ds, m.raw = b :: ds ∧ hiNibble ((b &&& 0xF0#8) ||| BitVec.ofNat 8 e) = hiNibble b ∧
      (loNibble ((b &&& 0xF0#8) ||| BitVec.ofNat 8 e)).toNat = e ∧
      exec (.forward m e) s =
        .next { s with seq := { s.seq with txPend := ((b &&& 0xF0#8) ||| BitVec.ofNat 8 e) :: ds } }

/-- A forwarded message is sent whole (spec/43_router.md R205, R206, spec/45_poll_loop.md R242, R243): with no gap to wait
for and room in the queue, as many steps of `POLL` as bytes enqueue them in order, contiguously, and one pulse follows the
last. -/
def Obligations.ForwardIsSentWhole : Prop :=
  ∀ s : State, s.active = true → s.seq.txPend ≠ [] → s.link.minGapUs = 0#64 →
    s.link.hwq.length + s.seq.txPend.length ≤ s.config.hwqDepth →
      ∃ t, runInstrs (List.replicate s.seq.txPend.length .poll) s = .next t ∧ t.seq = { s.seq with txPend := [] } ∧
        t.link =
          { s.link with
            hwq := s.link.hwq ++ s.seq.txPend, lastUs := s.env.now, lastValid := true
            byteCount := s.link.byteCount + BitVec.ofNat 32 s.seq.txPend.length } ∧
        t.out.pulseOut = s.out.pulseOut + 1 ∧ t.out.linkOut = s.out.linkOut ∧ t.ring = s.ring ∧
        t.parser = s.parser ∧ t.mbx = s.mbx ∧ t.env = s.env

/-- `PULSE` (spec/43_router.md R206): one strobe. -/
def Obligations.PulseCounts : Prop :=
  ∀ s : State, pollFree s = true →
    exec .pulse s = .next { s with out := { s.out with pulseOut := s.out.pulseOut + 1 } }

/-- `MBX_TAKE` (spec/41_parser.md R152): the message, and the slot is empty; nothing from an empty slot. A call that
waited takes it in its turn. The latch of the answer and `flushT0` are the model's (notes/assumptions/10.md,
notes/assumptions/8.md). -/
def Obligations.MailboxTake : Prop :=
  (∀ s : State, pollFree s = true →
    (s.mbx.full = true →
      exec .mbxTake s = .next { s with
        mbx := { s.mbx with full := false }
        seq := { s.seq with flushT0 := none }
        out := { s.out with resp := .mailbox (some s.mbx.msg) } }) ∧
    (s.mbx.full = false →
      exec .mbxTake s = .next { s with
        seq := { s.seq with flushT0 := none }
        out := { s.out with resp := .mailbox none } })) ∧
  (∀ (s : State) (rest : List Call), s.active = true → s.seq.txPend = [] → s.seq.calls = .mbxTake :: rest →
    exec .poll s = .next { s with
      mbx := { s.mbx with full := false }
      seq := { s.seq with calls := rest, flushT0 := none }
      out := { s.out with resp := .mailbox (if s.mbx.full then some s.mbx.msg else none) } })

/-- The mailbox has no effect on the data path (spec/41_parser.md R152): two states that differ only in the mailbox, the
event log and the response latch take the same step, and still differ only there. -/
def Obligations.MailboxHasNoEffect : Prop :=
  ∀ s t : State, SameButMailbox s t →
    match step s, step t with
    | .next s', .next t' => SameButMailbox s' t'
    | .fault f, .fault g => f = g
    | .refused r, .refused q => r = q
    | _, _ => False

/-! ### The codec -/

/-- `DECODE` (spec/42_codec.md R171, R173): the code selects a byte count; where the payload is a status byte of that length
with data bytes in the data positions the answer is that message, otherwise it is null and recorded. The latch of the answer
is the model's (notes/assumptions/10.md). -/
def Obligations.DecodeIsMessageOrNull : Prop :=
  ∀ (s : State) (p : Packet) (n : Nat), pollFree s = true → n = cinLen (packetCin p) →
    (n ≠ 0 ∧ 0x80#8 ≤ p.p1 ∧ lenOf p.p1 = some n ∧ (n < 2 ∨ p.p2 < 0x80#8) ∧ (n < 3 ∨ p.p3 < 0x80#8) →
      exec (.decode p) s =
        .next { s with out := { s.out with resp := .decoded { raw := [p.p1, p.p2, p.p3].take n } } } ∧
      msgOk { raw := [p.p1, p.p2, p.p3].take n } = true) ∧
    (¬(n ≠ 0 ∧ 0x80#8 ≤ p.p1 ∧ lenOf p.p1 = some n ∧ (n < 2 ∨ p.p2 < 0x80#8) ∧ (n < 3 ∨ p.p3 < 0x80#8)) →
      exec (.decode p) s = .next { s with
        out := { s.out with resp := .decoded nullMessage, events := s.out.events ++ [.packetNull p] } })

/-- The sixteen packet rows (spec/42_codec.md R172, R175 to R190, spec/45_poll_loop.md R241): each code's byte count, 0 for
the five unrecognised codes; a valid payload is routed as a host message, and any other packet is discarded with its event
only. That a row also routes what it decodes is the model's reading (notes/assumptions/13.md). -/
def Obligations.PacketRowsRoute : Prop :=
  ∀ (s : State) (cn : Nibble) (p1 p2 p3 : Byte) (i : Instr) (cin : Nibble) (n : Nat), pollFree s = true →
    (i, cin, n) ∈ ([(.pktCin0 cn p1 p2 p3, 0x0#4, 0), (.pktCin1 cn p1 p2 p3, 0x1#4, 0), (.pktSys2 cn p1 p2 p3, 0x2#4, 2),
      (.pktSys3 cn p1 p2 p3, 0x3#4, 3), (.pktCin4 cn p1 p2 p3, 0x4#4, 0), (.pktSys1 cn p1 p2 p3, 0x5#4, 1),
      (.pktCin6 cn p1 p2 p3, 0x6#4, 0), (.pktCin7 cn p1 p2 p3, 0x7#4, 0), (.pktNoteOff cn p1 p2 p3, 0x8#4, 3),
      (.pktNoteOn cn p1 p2 p3, 0x9#4, 3), (.pktPolyPressure cn p1 p2 p3, 0xA#4, 3),
      (.pktControlChange cn p1 p2 p3, 0xB#4, 3), (.pktProgramChange cn p1 p2 p3, 0xC#4, 2),
      (.pktChannelPressure cn p1 p2 p3, 0xD#4, 2), (.pktPitchBend cn p1 p2 p3, 0xE#4, 3),
      (.pktSingleByte cn p1 p2 p3, 0xF#4, 1)] : List (Instr × Nibble × Nat)) →
      (msgOk { raw := [p1, p2, p3].take n } = true →
        ∃ t, exec (.onHostMessage { raw := [p1, p2, p3].take n }) s = .next t ∧ exec i s = .next t) ∧
      (msgOk { raw := [p1, p2, p3].take n } = false →
        exec i s = .next { s with
          out := { s.out with events := s.out.events ++ [.packetNull { p0 := joinNibbles cn cin, p1, p2, p3 }] } })

/-- The encoder rows (spec/42_codec.md R191 to R196): the code of each kind group with cable 0, and the raw bytes padded with
zeros; `ENCODE` of the same message answers the same packet. The latch of the answer is the model's
(notes/assumptions/10.md). -/
def Obligations.EncoderRows : Prop :=
  ∀ (s : State) (m : Message) (r : BitVec 3) (d d1 d2 : Data7) (i : Instr) (cin : Nibble), pollFree s = true →
    (i, m, cin) ∈ ([(.encChannelVoice m, m, hiNibble (msgStatus m)), (.encRealTime r, { raw := [realTimeByte r] }, 0xF#4),
      (.encSysF0, { raw := [0xF0#8] }, 0x5#4), (.encSysF6, { raw := [0xF6#8] }, 0x5#4),
      (.encSysF1 d, { raw := [0xF1#8, dataByte d] }, 0x2#4), (.encSysF3 d, { raw := [0xF3#8, dataByte d] }, 0x2#4),
      (.encSysF2 d1 d2, { raw := [0xF2#8, dataByte d1, dataByte d2] }, 0x3#4)] : List (Instr × Message × Nibble)) →
    i.wf = true →
      let p : Packet :=
        { p0 := joinNibbles 0#4 cin, p1 := m.raw.getD 0 0#8, p2 := m.raw.getD 1 0#8, p3 := m.raw.getD 2 0#8 }
      exec i s = .next { s with out := { s.out with resp := .encoded p } } ∧
        exec (.encode m) s = .next { s with out := { s.out with resp := .encoded p } }

/-- The round-trip law (spec/42_codec.md R197), through the two operations: every Message encodes to a packet that decodes to
it. The converse fails: a packet can decode to a message that encodes to another packet. The latch of the answers is the
model's (notes/assumptions/10.md). -/
def Obligations.RoundTripThroughTheCodec : Prop :=
  (∀ (s : State) (m : Message), pollFree s = true → msgOk m = true →
    ∃ p, exec (.encode m) s = .next { s with out := { s.out with resp := .encoded p } } ∧
      exec (.decode p) s = .next { s with out := { s.out with resp := .decoded m } }) ∧
  (∀ s : State, pollFree s = true →
    ∃ p q m, p ≠ q ∧ exec (.decode p) s = .next { s with out := { s.out with resp := .decoded m } } ∧
      exec (.encode m) s = .next { s with out := { s.out with resp := .encoded q } })

/-- The model's refusals (notes/assumptions/16.md): an operation on a Message refuses a record that is none, `ENCODE` refuses
the null message by its own name (spec/92_eei_decisions.md D33), and the channel-voice operations refuse another kind. -/
def Obligations.NonMessagesAreRefused : Prop :=
  ∀ (s : State) (m : Message) (e : Fin nInt),
    (msgOk m = false →
      exec (.deliver m) s = .refused .notAMessage ∧ exec (.onParserMessage m) s = .refused .notAMessage ∧
      exec (.mirror m) s = .refused .notAMessage ∧ exec (.route m) s = .refused .notAMessage ∧
      exec (.onHostMessage m) s = .refused .notAMessage ∧
      exec (.encode m) s = .refused (if m = nullMessage then .encodeNull else .notAMessage)) ∧
    (msgIsVoice m = false →
      exec (.policyDrop m) s = .refused .notChannelVoice ∧ exec (.forward m e) s = .refused .notChannelVoice ∧
      exec (.encChannelVoice m) s = .refused .notChannelVoice)

/-! ### The link transmitter -/

/-- `SEND` by a client (spec/44_link_tx.md R220): when the gap has elapsed, or nothing was sent yet, and the queue has room,
the byte is enqueued with the present instant as its time and counted; otherwise the call waits on the poll context,
nothing else has changed, and a later step of `A_POLL` enqueues it. The waiting call, `flushT0` and the log of the
instants are the model's (notes/assumptions/8.md, notes/assumptions/11.md). -/
def Obligations.SendEnqueuesOrWaits : Prop :=
  (∀ (s : State) (b : Byte), pollFree s = true →
    ((s.link.lastValid = false ∨ s.link.minGapUs ≤ s.env.now - s.link.lastUs) ∧
        s.link.hwq.length < s.config.hwqDepth →
      exec (.send b) s = .next { s with
        link :=
          { s.link with
            hwq := s.link.hwq ++ [b], lastUs := s.env.now, lastValid := true, byteCount := s.link.byteCount + 1#32 }
        seq := { s.seq with flushT0 := none }
        out := { s.out with sent := s.out.sent ++ [(s.env.now, b)] } }) ∧
    (¬((s.link.lastValid = false ∨ s.link.minGapUs ≤ s.env.now - s.link.lastUs) ∧
        s.link.hwq.length < s.config.hwqDepth) →
      exec (.send b) s = .next { s with seq := { s.seq with calls := [.send b], flushT0 := none } })) ∧
  (∀ (s : State) (b : Byte) (rest : List Call), s.active = true → s.seq.txPend = [] → s.seq.calls = .send b :: rest →
    ((s.link.lastValid = false ∨ s.link.minGapUs ≤ s.env.now - s.link.lastUs) ∧
        s.link.hwq.length < s.config.hwqDepth →
      exec .poll s = .next { s with
        link :=
          { s.link with
            hwq := s.link.hwq ++ [b], lastUs := s.env.now, lastValid := true, byteCount := s.link.byteCount + 1#32 }
        seq := { s.seq with calls := rest, flushT0 := none }
        out := { s.out with sent := s.out.sent ++ [(s.env.now, b)] } }) ∧
    (¬((s.link.lastValid = false ∨ s.link.minGapUs ≤ s.env.now - s.link.lastUs) ∧
        s.link.hwq.length < s.config.hwqDepth) →
      exec .poll s = .next s))

/-- `A_POLL` with a pending forward (spec/45_poll_loop.md R243): its step sends the front byte when `SEND`'s condition holds,
with the pulse when that empties `tx_pend`; otherwise it waits. The log of the instants is the model's
(notes/assumptions/11.md). -/
def Obligations.PendingForwardSendsItsFront : Prop :=
  ∀ (s : State) (b : Byte) (rest : List Byte), s.active = true → s.seq.txPend = b :: rest →
    ((s.link.lastValid = false ∨ s.link.minGapUs ≤ s.env.now - s.link.lastUs) ∧
        s.link.hwq.length < s.config.hwqDepth →
      exec .poll s = .next { s with
        link :=
          { s.link with
            hwq := s.link.hwq ++ [b], lastUs := s.env.now, lastValid := true, byteCount := s.link.byteCount + 1#32 }
        seq := { s.seq with txPend := rest }
        out :=
          { s.out with
            sent := s.out.sent ++ [(s.env.now, b)]
            pulseOut := if rest = [] then s.out.pulseOut + 1 else s.out.pulseOut } }) ∧
    (¬((s.link.lastValid = false ∨ s.link.minGapUs ≤ s.env.now - s.link.lastUs) ∧
        s.link.hwq.length < s.config.hwqDepth) →
      exec .poll s = .next s)

/-- While the poll context is not free, because a forwarded byte or a call waits or the block is inactive, it takes no other
step of its own (spec/44_link_tx.md R221, spec/45_poll_loop.md R243, R244): nothing is popped, parsed, decoded or routed. A
client's call waits its turn behind the earlier ones. That an instruction which is not enabled changes nothing, and that
calls wait in order, is the model's (notes/assumptions/7.md, notes/assumptions/8.md). -/
def Obligations.BusyPollTakesNoOtherStep : Prop :=
  (∀ (i : Instr) (s : State), isPollStep i = true → i.wf = true → pollFree s = false → exec i s = .next s) ∧
  (∀ (s : State) (i : Instr) (c : Call) (b : Byte),
    (i, c) ∈ ([(.drain, .drain), (.mbxTake, .mbxTake), (.flush, .flush), (.send b, .send b)] : List (Instr × Call)) →
    s.active = true → pollFree s = false →
      exec i s = .next { s with seq := { s.seq with calls := s.seq.calls ++ [c] } })

/-- `LINK_POP` (spec/44_link_tx.md R226): the front byte of `hwq` moves to the end of `link_out`. That it is gated on
`active` is the model's reading (notes/assumptions/23.md). -/
def Obligations.LinkPopTakesTheFront : Prop :=
  ∀ s : State, s.active = true →
    (∀ b rest, s.link.hwq = b :: rest →
      exec .linkPop s =
        .next { s with link := { s.link with hwq := rest }, out := { s.out with linkOut := s.out.linkOut ++ [b] } }) ∧
    (s.link.hwq = [] → exec .linkPop s = .next s)

/-- `FLUSH` (spec/44_link_tx.md R224): it waits for `hwq` to be empty, takes that instant as `t0`, and returns once
`SETTLE_US` has passed since, a whole number of microseconds of no width (the model's, notes/assumptions/1.md). The
waiting call, `flushT0` and the done response are the model's (notes/assumptions/8.md, notes/assumptions/10.md,
notes/assumptions/26.md). -/
def Obligations.FlushWaitsAndReturns : Prop :=
  (∀ s : State, pollFree s = true →
    (s.link.hwq ≠ [] → exec .flush s = .next { s with seq := { s.seq with calls := [.flush], flushT0 := none } }) ∧
    (s.link.hwq = [] → s.config.settleUs = 0 →
      exec .flush s = .next { s with seq := { s.seq with flushT0 := none }, out := { s.out with resp := .flushed } }) ∧
    (s.link.hwq = [] → s.config.settleUs ≠ 0 →
      exec .flush s = .next { s with seq := { s.seq with calls := [.flush], flushT0 := some s.env.now } })) ∧
  (∀ (s : State) (rest : List Call) (t0 : Time), s.active = true → s.seq.txPend = [] → s.seq.calls = .flush :: rest →
    (s.seq.flushT0 = none → s.link.hwq ≠ [] → exec .poll s = .next s) ∧
    (s.seq.flushT0 = none → s.link.hwq = [] → s.config.settleUs = 0 →
      exec .poll s = .next { s with seq := { s.seq with calls := rest }, out := { s.out with resp := .flushed } }) ∧
    (s.seq.flushT0 = none → s.link.hwq = [] → s.config.settleUs ≠ 0 →
      exec .poll s = .next { s with seq := { s.seq with flushT0 := some s.env.now } }) ∧
    (s.seq.flushT0 = some t0 → s.config.settleUs ≤ (s.env.now - t0).toNat →
      exec .poll s =
        .next { s with seq := { s.seq with calls := rest, flushT0 := none }, out := { s.out with resp := .flushed } }) ∧
    (s.seq.flushT0 = some t0 → ¬s.config.settleUs ≤ (s.env.now - t0).toNat → exec .poll s = .next s))

/-! ### The sequencer -/

/-- `DRAIN` (spec/40_ring_buffer.md R113), one iteration a step: each pops the oldest byte and parses it, and the call ends
at the first that finds the ring empty. The waiting call and `flushT0` are the model's (notes/assumptions/8.md,
notes/assumptions/25.md). -/
def Obligations.DrainParsesUntilEmpty : Prop :=
  (∀ s : State, pollFree s = true →
    (s.ring.wr = s.ring.rd → exec .drain s = .next { s with seq := { s.seq with flushT0 := none } }) ∧
    (s.ring.wr ≠ s.ring.rd →
      ∃ u, exec (.parse (ringRead s s.ring.rd)) { s with
          ring := { s.ring with rd := (s.ring.rd + 1) % 2 ^ s.config.rbLog }
          seq := { s.seq with flushT0 := none } } = .next u ∧
        exec .drain s = .next { u with seq := { u.seq with calls := [.drain] } })) ∧
  (∀ (s : State) (rest : List Call), s.active = true → s.seq.txPend = [] → s.seq.calls = .drain :: rest →
    (s.ring.wr = s.ring.rd → exec .poll s = .next { s with seq := { s.seq with calls := rest, flushT0 := none } }) ∧
    (s.ring.wr ≠ s.ring.rd →
      ∃ u, exec (.parse (ringRead s s.ring.rd)) { s with
          ring := { s.ring with rd := (s.ring.rd + 1) % 2 ^ s.config.rbLog }
          seq := { s.seq with calls := [] } } = .next u ∧
        exec .poll s = .next { u with seq := { u.seq with calls := .drain :: rest } }))

/-- `POLL` (spec/45_poll_loop.md R240, R241): in the ring phase the oldest byte is popped and parsed, and an empty ring ends
the phase; in the host phase the front packet is read and decoded, a message is routed as the host's and a null one is
discarded with its event only, and no packet ends the phase. The order of the phases and their ends are the spec's own
decision D25, and the separate steps are R244's. -/
def Obligations.PollTakesThePhasesStep : Prop :=
  ∀ s : State, pollFree s = true →
    (s.seq.phase = .ring → s.ring.wr = s.ring.rd → exec .poll s = .next { s with seq := { s.seq with phase := .host } }) ∧
    (s.seq.phase = .ring → s.ring.wr ≠ s.ring.rd →
      ∃ u, exec (.parse (ringRead s s.ring.rd))
          { s with ring := { s.ring with rd := (s.ring.rd + 1) % 2 ^ s.config.rbLog } } = .next u ∧
        exec .poll s = .next u) ∧
    (s.seq.phase = .host → s.env.hostIn = [] → exec .poll s = .next { s with seq := { s.seq with phase := .ring } }) ∧
    (∀ p rest, s.seq.phase = .host → s.env.hostIn = p :: rest →
      let u : State := { s with env := { s.env with hostIn := rest } }
      let m : Message := { raw := [p.p1, p.p2, p.p3].take (cinLen (packetCin p)) }
      (msgOk m = true → ∃ t, exec (.onHostMessage m) u = .next t ∧ exec .poll s = .next t) ∧
        (msgOk m = false →
          exec .poll s = .next { u with out := { u.out with events := u.out.events ++ [.packetNull p] } }))
end

