-- ==== Sys2Proof/Laws/State.lean ====
section
/-! SUPPORT. The small lemmas of the state's updates: one per field and update, true by rfl, so that no later proof unfolds
a record update. -/

namespace Sys2Proof.Machine

open Sys2Proof

/-! ### `raise` -/

@[simp] theorem raise_config (e : Event) (s : State) : (raise e s).config = s.config := rfl
@[simp] theorem raise_ring (e : Event) (s : State) : (raise e s).ring = s.ring := rfl
@[simp] theorem raise_parser (e : Event) (s : State) : (raise e s).parser = s.parser := rfl
@[simp] theorem raise_mbx (e : Event) (s : State) : (raise e s).mbx = s.mbx := rfl
@[simp] theorem raise_chmap (e : Event) (s : State) : (raise e s).chmap = s.chmap := rfl
@[simp] theorem raise_rtDrop (e : Event) (s : State) : (raise e s).rtDrop = s.rtDrop := rfl
@[simp] theorem raise_link (e : Event) (s : State) : (raise e s).link = s.link := rfl
@[simp] theorem raise_seq_txPend (e : Event) (s : State) : (raise e s).seq.txPend = s.seq.txPend := rfl
@[simp] theorem raise_seq_phase (e : Event) (s : State) : (raise e s).seq.phase = s.seq.phase := rfl
@[simp] theorem raise_seq_calls (e : Event) (s : State) : (raise e s).seq.calls = s.seq.calls := rfl
@[simp] theorem raise_seq_flushT0 (e : Event) (s : State) : (raise e s).seq.flushT0 = s.seq.flushT0 := rfl
@[simp] theorem raise_active (e : Event) (s : State) : (raise e s).active = s.active := rfl
@[simp] theorem raise_initFail (e : Event) (s : State) : (raise e s).initFail = s.initFail := rfl
@[simp] theorem raise_env (e : Event) (s : State) : (raise e s).env = s.env := rfl
@[simp] theorem raise_out_hostOut (e : Event) (s : State) : (raise e s).out.hostOut = s.out.hostOut := rfl
@[simp] theorem raise_out_linkOut (e : Event) (s : State) : (raise e s).out.linkOut = s.out.linkOut := rfl
@[simp] theorem raise_out_pulseOut (e : Event) (s : State) : (raise e s).out.pulseOut = s.out.pulseOut := rfl
@[simp] theorem raise_out_events (e : Event) (s : State) : (raise e s).out.events = s.out.events ++ [e] := rfl
@[simp] theorem raise_out_sent (e : Event) (s : State) : (raise e s).out.sent = s.out.sent := rfl
@[simp] theorem raise_out_resp (e : Event) (s : State) : (raise e s).out.resp = s.out.resp := rfl

/-! ### `respond` -/

@[simp] theorem respond_config (r : Response) (s : State) : (respond r s).config = s.config := rfl
@[simp] theorem respond_ring (r : Response) (s : State) : (respond r s).ring = s.ring := rfl
@[simp] theorem respond_parser (r : Response) (s : State) : (respond r s).parser = s.parser := rfl
@[simp] theorem respond_mbx (r : Response) (s : State) : (respond r s).mbx = s.mbx := rfl
@[simp] theorem respond_chmap (r : Response) (s : State) : (respond r s).chmap = s.chmap := rfl
@[simp] theorem respond_rtDrop (r : Response) (s : State) : (respond r s).rtDrop = s.rtDrop := rfl
@[simp] theorem respond_link (r : Response) (s : State) : (respond r s).link = s.link := rfl
@[simp] theorem respond_seq_txPend (r : Response) (s : State) : (respond r s).seq.txPend = s.seq.txPend := rfl
@[simp] theorem respond_seq_phase (r : Response) (s : State) : (respond r s).seq.phase = s.seq.phase := rfl
@[simp] theorem respond_seq_calls (r : Response) (s : State) : (respond r s).seq.calls = s.seq.calls := rfl
@[simp] theorem respond_seq_flushT0 (r : Response) (s : State) : (respond r s).seq.flushT0 = s.seq.flushT0 := rfl
@[simp] theorem respond_active (r : Response) (s : State) : (respond r s).active = s.active := rfl
@[simp] theorem respond_initFail (r : Response) (s : State) : (respond r s).initFail = s.initFail := rfl
@[simp] theorem respond_env (r : Response) (s : State) : (respond r s).env = s.env := rfl
@[simp] theorem respond_out_hostOut (r : Response) (s : State) : (respond r s).out.hostOut = s.out.hostOut := rfl
@[simp] theorem respond_out_linkOut (r : Response) (s : State) : (respond r s).out.linkOut = s.out.linkOut := rfl
@[simp] theorem respond_out_pulseOut (r : Response) (s : State) : (respond r s).out.pulseOut = s.out.pulseOut := rfl
@[simp] theorem respond_out_events (r : Response) (s : State) : (respond r s).out.events = s.out.events := rfl
@[simp] theorem respond_out_sent (r : Response) (s : State) : (respond r s).out.sent = s.out.sent := rfl
@[simp] theorem respond_out_resp (r : Response) (s : State) : (respond r s).out.resp = r := rfl

/-! ### `pulse` -/

@[simp] theorem pulse_config (s : State) : (pulse s).config = s.config := rfl
@[simp] theorem pulse_ring (s : State) : (pulse s).ring = s.ring := rfl
@[simp] theorem pulse_parser (s : State) : (pulse s).parser = s.parser := rfl
@[simp] theorem pulse_mbx (s : State) : (pulse s).mbx = s.mbx := rfl
@[simp] theorem pulse_chmap (s : State) : (pulse s).chmap = s.chmap := rfl
@[simp] theorem pulse_rtDrop (s : State) : (pulse s).rtDrop = s.rtDrop := rfl
@[simp] theorem pulse_link (s : State) : (pulse s).link = s.link := rfl
@[simp] theorem pulse_seq_txPend (s : State) : (pulse s).seq.txPend = s.seq.txPend := rfl
@[simp] theorem pulse_seq_phase (s : State) : (pulse s).seq.phase = s.seq.phase := rfl
@[simp] theorem pulse_seq_calls (s : State) : (pulse s).seq.calls = s.seq.calls := rfl
@[simp] theorem pulse_seq_flushT0 (s : State) : (pulse s).seq.flushT0 = s.seq.flushT0 := rfl
@[simp] theorem pulse_active (s : State) : (pulse s).active = s.active := rfl
@[simp] theorem pulse_initFail (s : State) : (pulse s).initFail = s.initFail := rfl
@[simp] theorem pulse_env (s : State) : (pulse s).env = s.env := rfl
@[simp] theorem pulse_out_hostOut (s : State) : (pulse s).out.hostOut = s.out.hostOut := rfl
@[simp] theorem pulse_out_linkOut (s : State) : (pulse s).out.linkOut = s.out.linkOut := rfl
@[simp] theorem pulse_out_pulseOut (s : State) : (pulse s).out.pulseOut = s.out.pulseOut + 1 := rfl
@[simp] theorem pulse_out_events (s : State) : (pulse s).out.events = s.out.events := rfl
@[simp] theorem pulse_out_sent (s : State) : (pulse s).out.sent = s.out.sent := rfl
@[simp] theorem pulse_out_resp (s : State) : (pulse s).out.resp = s.out.resp := rfl

/-! ### `policyDrop` -/

@[simp] theorem policyDrop_config (m : Message) (s : State) : (policyDrop m s).config = s.config := rfl
@[simp] theorem policyDrop_ring (m : Message) (s : State) : (policyDrop m s).ring = s.ring := rfl
@[simp] theorem policyDrop_parser (m : Message) (s : State) : (policyDrop m s).parser = s.parser := rfl
@[simp] theorem policyDrop_mbx (m : Message) (s : State) : (policyDrop m s).mbx = s.mbx := rfl
@[simp] theorem policyDrop_chmap (m : Message) (s : State) : (policyDrop m s).chmap = s.chmap := rfl
@[simp] theorem policyDrop_rtDrop (m : Message) (s : State) : (policyDrop m s).rtDrop = s.rtDrop + 1#32 := rfl
@[simp] theorem policyDrop_link (m : Message) (s : State) : (policyDrop m s).link = s.link := rfl
@[simp] theorem policyDrop_seq_txPend (m : Message) (s : State) : (policyDrop m s).seq.txPend = s.seq.txPend := rfl
@[simp] theorem policyDrop_seq_phase (m : Message) (s : State) : (policyDrop m s).seq.phase = s.seq.phase := rfl
@[simp] theorem policyDrop_seq_calls (m : Message) (s : State) : (policyDrop m s).seq.calls = s.seq.calls := rfl
@[simp] theorem policyDrop_seq_flushT0 (m : Message) (s : State) : (policyDrop m s).seq.flushT0 = s.seq.flushT0 := rfl
@[simp] theorem policyDrop_active (m : Message) (s : State) : (policyDrop m s).active = s.active := rfl
@[simp] theorem policyDrop_initFail (m : Message) (s : State) : (policyDrop m s).initFail = s.initFail := rfl
@[simp] theorem policyDrop_env (m : Message) (s : State) : (policyDrop m s).env = s.env := rfl
@[simp] theorem policyDrop_out_hostOut (m : Message) (s : State) : (policyDrop m s).out.hostOut = s.out.hostOut := rfl
@[simp] theorem policyDrop_out_linkOut (m : Message) (s : State) : (policyDrop m s).out.linkOut = s.out.linkOut := rfl
@[simp] theorem policyDrop_out_pulseOut (m : Message) (s : State) : (policyDrop m s).out.pulseOut = s.out.pulseOut := rfl
@[simp] theorem policyDrop_out_events (m : Message) (s : State) : (policyDrop m s).out.events = s.out.events ++ [.policyDrop m] := rfl
@[simp] theorem policyDrop_out_sent (m : Message) (s : State) : (policyDrop m s).out.sent = s.out.sent := rfl
@[simp] theorem policyDrop_out_resp (m : Message) (s : State) : (policyDrop m s).out.resp = s.out.resp := rfl

/-! ### `forward` -/

@[simp] theorem forward_config (m : Message) (e : Fin nInt) (s : State) : (forward m e s).config = s.config := rfl
@[simp] theorem forward_ring (m : Message) (e : Fin nInt) (s : State) : (forward m e s).ring = s.ring := rfl
@[simp] theorem forward_parser (m : Message) (e : Fin nInt) (s : State) : (forward m e s).parser = s.parser := rfl
@[simp] theorem forward_mbx (m : Message) (e : Fin nInt) (s : State) : (forward m e s).mbx = s.mbx := rfl
@[simp] theorem forward_chmap (m : Message) (e : Fin nInt) (s : State) : (forward m e s).chmap = s.chmap := rfl
@[simp] theorem forward_rtDrop (m : Message) (e : Fin nInt) (s : State) : (forward m e s).rtDrop = s.rtDrop := rfl
@[simp] theorem forward_link (m : Message) (e : Fin nInt) (s : State) : (forward m e s).link = s.link := rfl
@[simp] theorem forward_seq_txPend (m : Message) (e : Fin nInt) (s : State) : (forward m e s).seq.txPend = forwardBytes m e := rfl
@[simp] theorem forward_seq_phase (m : Message) (e : Fin nInt) (s : State) : (forward m e s).seq.phase = s.seq.phase := rfl
@[simp] theorem forward_seq_calls (m : Message) (e : Fin nInt) (s : State) : (forward m e s).seq.calls = s.seq.calls := rfl
@[simp] theorem forward_seq_flushT0 (m : Message) (e : Fin nInt) (s : State) : (forward m e s).seq.flushT0 = s.seq.flushT0 := rfl
@[simp] theorem forward_active (m : Message) (e : Fin nInt) (s : State) : (forward m e s).active = s.active := rfl
@[simp] theorem forward_initFail (m : Message) (e : Fin nInt) (s : State) : (forward m e s).initFail = s.initFail := rfl
@[simp] theorem forward_env (m : Message) (e : Fin nInt) (s : State) : (forward m e s).env = s.env := rfl
@[simp] theorem forward_out_hostOut (m : Message) (e : Fin nInt) (s : State) : (forward m e s).out.hostOut = s.out.hostOut := rfl
@[simp] theorem forward_out_linkOut (m : Message) (e : Fin nInt) (s : State) : (forward m e s).out.linkOut = s.out.linkOut := rfl
@[simp] theorem forward_out_pulseOut (m : Message) (e : Fin nInt) (s : State) : (forward m e s).out.pulseOut = s.out.pulseOut := rfl
@[simp] theorem forward_out_events (m : Message) (e : Fin nInt) (s : State) : (forward m e s).out.events = s.out.events := rfl
@[simp] theorem forward_out_sent (m : Message) (e : Fin nInt) (s : State) : (forward m e s).out.sent = s.out.sent := rfl
@[simp] theorem forward_out_resp (m : Message) (e : Fin nInt) (s : State) : (forward m e s).out.resp = s.out.resp := rfl

/-! ### `setPhase` -/

@[simp] theorem setPhase_config (p : Phase) (s : State) : (setPhase p s).config = s.config := rfl
@[simp] theorem setPhase_ring (p : Phase) (s : State) : (setPhase p s).ring = s.ring := rfl
@[simp] theorem setPhase_parser (p : Phase) (s : State) : (setPhase p s).parser = s.parser := rfl
@[simp] theorem setPhase_mbx (p : Phase) (s : State) : (setPhase p s).mbx = s.mbx := rfl
@[simp] theorem setPhase_chmap (p : Phase) (s : State) : (setPhase p s).chmap = s.chmap := rfl
@[simp] theorem setPhase_rtDrop (p : Phase) (s : State) : (setPhase p s).rtDrop = s.rtDrop := rfl
@[simp] theorem setPhase_link (p : Phase) (s : State) : (setPhase p s).link = s.link := rfl
@[simp] theorem setPhase_seq_txPend (p : Phase) (s : State) : (setPhase p s).seq.txPend = s.seq.txPend := rfl
@[simp] theorem setPhase_seq_phase (p : Phase) (s : State) : (setPhase p s).seq.phase = p := rfl
@[simp] theorem setPhase_seq_calls (p : Phase) (s : State) : (setPhase p s).seq.calls = s.seq.calls := rfl
@[simp] theorem setPhase_seq_flushT0 (p : Phase) (s : State) : (setPhase p s).seq.flushT0 = s.seq.flushT0 := rfl
@[simp] theorem setPhase_active (p : Phase) (s : State) : (setPhase p s).active = s.active := rfl
@[simp] theorem setPhase_initFail (p : Phase) (s : State) : (setPhase p s).initFail = s.initFail := rfl
@[simp] theorem setPhase_env (p : Phase) (s : State) : (setPhase p s).env = s.env := rfl
@[simp] theorem setPhase_out_hostOut (p : Phase) (s : State) : (setPhase p s).out.hostOut = s.out.hostOut := rfl
@[simp] theorem setPhase_out_linkOut (p : Phase) (s : State) : (setPhase p s).out.linkOut = s.out.linkOut := rfl
@[simp] theorem setPhase_out_pulseOut (p : Phase) (s : State) : (setPhase p s).out.pulseOut = s.out.pulseOut := rfl
@[simp] theorem setPhase_out_events (p : Phase) (s : State) : (setPhase p s).out.events = s.out.events := rfl
@[simp] theorem setPhase_out_sent (p : Phase) (s : State) : (setPhase p s).out.sent = s.out.sent := rfl
@[simp] theorem setPhase_out_resp (p : Phase) (s : State) : (setPhase p s).out.resp = s.out.resp := rfl

/-! ### `returnCall` -/

@[simp] theorem returnCall_config (rest : List Call) (s : State) : (returnCall rest s).config = s.config := rfl
@[simp] theorem returnCall_ring (rest : List Call) (s : State) : (returnCall rest s).ring = s.ring := rfl
@[simp] theorem returnCall_parser (rest : List Call) (s : State) : (returnCall rest s).parser = s.parser := rfl
@[simp] theorem returnCall_mbx (rest : List Call) (s : State) : (returnCall rest s).mbx = s.mbx := rfl
@[simp] theorem returnCall_chmap (rest : List Call) (s : State) : (returnCall rest s).chmap = s.chmap := rfl
@[simp] theorem returnCall_rtDrop (rest : List Call) (s : State) : (returnCall rest s).rtDrop = s.rtDrop := rfl
@[simp] theorem returnCall_link (rest : List Call) (s : State) : (returnCall rest s).link = s.link := rfl
@[simp] theorem returnCall_seq_txPend (rest : List Call) (s : State) : (returnCall rest s).seq.txPend = s.seq.txPend := rfl
@[simp] theorem returnCall_seq_phase (rest : List Call) (s : State) : (returnCall rest s).seq.phase = s.seq.phase := rfl
@[simp] theorem returnCall_seq_calls (rest : List Call) (s : State) : (returnCall rest s).seq.calls = rest := rfl
@[simp] theorem returnCall_seq_flushT0 (rest : List Call) (s : State) : (returnCall rest s).seq.flushT0 = none := rfl
@[simp] theorem returnCall_active (rest : List Call) (s : State) : (returnCall rest s).active = s.active := rfl
@[simp] theorem returnCall_initFail (rest : List Call) (s : State) : (returnCall rest s).initFail = s.initFail := rfl
@[simp] theorem returnCall_env (rest : List Call) (s : State) : (returnCall rest s).env = s.env := rfl
@[simp] theorem returnCall_out_hostOut (rest : List Call) (s : State) : (returnCall rest s).out.hostOut = s.out.hostOut := rfl
@[simp] theorem returnCall_out_linkOut (rest : List Call) (s : State) : (returnCall rest s).out.linkOut = s.out.linkOut := rfl
@[simp] theorem returnCall_out_pulseOut (rest : List Call) (s : State) : (returnCall rest s).out.pulseOut = s.out.pulseOut := rfl
@[simp] theorem returnCall_out_events (rest : List Call) (s : State) : (returnCall rest s).out.events = s.out.events := rfl
@[simp] theorem returnCall_out_sent (rest : List Call) (s : State) : (returnCall rest s).out.sent = s.out.sent := rfl
@[simp] theorem returnCall_out_resp (rest : List Call) (s : State) : (returnCall rest s).out.resp = s.out.resp := rfl

/-! ### `enqueue` -/

@[simp] theorem enqueue_config (b : Byte) (s : State) : (enqueue b s).config = s.config := rfl
@[simp] theorem enqueue_ring (b : Byte) (s : State) : (enqueue b s).ring = s.ring := rfl
@[simp] theorem enqueue_parser (b : Byte) (s : State) : (enqueue b s).parser = s.parser := rfl
@[simp] theorem enqueue_mbx (b : Byte) (s : State) : (enqueue b s).mbx = s.mbx := rfl
@[simp] theorem enqueue_chmap (b : Byte) (s : State) : (enqueue b s).chmap = s.chmap := rfl
@[simp] theorem enqueue_rtDrop (b : Byte) (s : State) : (enqueue b s).rtDrop = s.rtDrop := rfl
@[simp] theorem enqueue_link (b : Byte) (s : State) : (enqueue b s).link = { hwq := s.link.hwq ++ [b], lastUs := s.env.now, lastValid := true, minGapUs := s.link.minGapUs, byteCount := s.link.byteCount + 1#32 } := rfl
@[simp] theorem enqueue_seq_txPend (b : Byte) (s : State) : (enqueue b s).seq.txPend = s.seq.txPend := rfl
@[simp] theorem enqueue_seq_phase (b : Byte) (s : State) : (enqueue b s).seq.phase = s.seq.phase := rfl
@[simp] theorem enqueue_seq_calls (b : Byte) (s : State) : (enqueue b s).seq.calls = s.seq.calls := rfl
@[simp] theorem enqueue_seq_flushT0 (b : Byte) (s : State) : (enqueue b s).seq.flushT0 = s.seq.flushT0 := rfl
@[simp] theorem enqueue_active (b : Byte) (s : State) : (enqueue b s).active = s.active := rfl
@[simp] theorem enqueue_initFail (b : Byte) (s : State) : (enqueue b s).initFail = s.initFail := rfl
@[simp] theorem enqueue_env (b : Byte) (s : State) : (enqueue b s).env = s.env := rfl
@[simp] theorem enqueue_out_hostOut (b : Byte) (s : State) : (enqueue b s).out.hostOut = s.out.hostOut := rfl
@[simp] theorem enqueue_out_linkOut (b : Byte) (s : State) : (enqueue b s).out.linkOut = s.out.linkOut := rfl
@[simp] theorem enqueue_out_pulseOut (b : Byte) (s : State) : (enqueue b s).out.pulseOut = s.out.pulseOut := rfl
@[simp] theorem enqueue_out_events (b : Byte) (s : State) : (enqueue b s).out.events = s.out.events := rfl
@[simp] theorem enqueue_out_sent (b : Byte) (s : State) : (enqueue b s).out.sent = s.out.sent ++ [(s.env.now, b)] := rfl
@[simp] theorem enqueue_out_resp (b : Byte) (s : State) : (enqueue b s).out.resp = s.out.resp := rfl

/-! ### `leaveBlock` -/

@[simp] theorem leaveBlock_config (s : State) : (leaveBlock s).config = s.config := rfl
@[simp] theorem leaveBlock_ring (s : State) : (leaveBlock s).ring = s.ring := rfl
@[simp] theorem leaveBlock_parser (s : State) : (leaveBlock s).parser = { s.parser with st := .idle } := rfl
@[simp] theorem leaveBlock_mbx (s : State) : (leaveBlock s).mbx = s.mbx := rfl
@[simp] theorem leaveBlock_chmap (s : State) : (leaveBlock s).chmap = s.chmap := rfl
@[simp] theorem leaveBlock_rtDrop (s : State) : (leaveBlock s).rtDrop = s.rtDrop := rfl
@[simp] theorem leaveBlock_link (s : State) : (leaveBlock s).link = s.link := rfl
@[simp] theorem leaveBlock_seq_txPend (s : State) : (leaveBlock s).seq.txPend = s.seq.txPend := rfl
@[simp] theorem leaveBlock_seq_phase (s : State) : (leaveBlock s).seq.phase = s.seq.phase := rfl
@[simp] theorem leaveBlock_seq_calls (s : State) : (leaveBlock s).seq.calls = s.seq.calls := rfl
@[simp] theorem leaveBlock_seq_flushT0 (s : State) : (leaveBlock s).seq.flushT0 = s.seq.flushT0 := rfl
@[simp] theorem leaveBlock_active (s : State) : (leaveBlock s).active = s.active := rfl
@[simp] theorem leaveBlock_initFail (s : State) : (leaveBlock s).initFail = s.initFail := rfl
@[simp] theorem leaveBlock_env (s : State) : (leaveBlock s).env = s.env := rfl
@[simp] theorem leaveBlock_out_hostOut (s : State) : (leaveBlock s).out.hostOut = s.out.hostOut := rfl
@[simp] theorem leaveBlock_out_linkOut (s : State) : (leaveBlock s).out.linkOut = s.out.linkOut := rfl
@[simp] theorem leaveBlock_out_pulseOut (s : State) : (leaveBlock s).out.pulseOut = s.out.pulseOut := rfl
@[simp] theorem leaveBlock_out_events (s : State) : (leaveBlock s).out.events = s.out.events := rfl
@[simp] theorem leaveBlock_out_sent (s : State) : (leaveBlock s).out.sent = s.out.sent := rfl
@[simp] theorem leaveBlock_out_resp (s : State) : (leaveBlock s).out.resp = s.out.resp := rfl

/-! ### The environment's own updates -/

@[simp] theorem setSched_config (ts : List Turn) (s : State) : (setSched ts s).config = s.config := rfl
@[simp] theorem setSched_ring (ts : List Turn) (s : State) : (setSched ts s).ring = s.ring := rfl
@[simp] theorem setSched_parser (ts : List Turn) (s : State) : (setSched ts s).parser = s.parser := rfl
@[simp] theorem setSched_mbx (ts : List Turn) (s : State) : (setSched ts s).mbx = s.mbx := rfl
@[simp] theorem setSched_chmap (ts : List Turn) (s : State) : (setSched ts s).chmap = s.chmap := rfl
@[simp] theorem setSched_rtDrop (ts : List Turn) (s : State) : (setSched ts s).rtDrop = s.rtDrop := rfl
@[simp] theorem setSched_link (ts : List Turn) (s : State) : (setSched ts s).link = s.link := rfl
@[simp] theorem setSched_seq (ts : List Turn) (s : State) : (setSched ts s).seq = s.seq := rfl
@[simp] theorem setSched_active (ts : List Turn) (s : State) : (setSched ts s).active = s.active := rfl
@[simp] theorem setSched_initFail (ts : List Turn) (s : State) : (setSched ts s).initFail = s.initFail := rfl
@[simp] theorem setSched_out (ts : List Turn) (s : State) : (setSched ts s).out = s.out := rfl
@[simp] theorem setSched_env_now (ts : List Turn) (s : State) : (setSched ts s).env.now = s.env.now := rfl
@[simp] theorem setSched_env_serialIn (ts : List Turn) (s : State) : (setSched ts s).env.serialIn = s.env.serialIn := rfl
@[simp] theorem setSched_env_hostIn (ts : List Turn) (s : State) : (setSched ts s).env.hostIn = s.env.hostIn := rfl
@[simp] theorem setSched_env_hostReady (ts : List Turn) (s : State) : (setSched ts s).env.hostReady = s.env.hostReady := rfl
@[simp] theorem setSched_env_transportOk (ts : List Turn) (s : State) : (setSched ts s).env.transportOk = s.env.transportOk := rfl
@[simp] theorem setSched_env_failedTransport (ts : List Turn) (s : State) : (setSched ts s).env.failedTransport = s.env.failedTransport := rfl
@[simp] theorem setSched_env_sched (ts : List Turn) (s : State) : (setSched ts s).env.sched = ts := rfl

@[simp] theorem hostArrive_config (p : Packet) (s : State) : (hostArrive p s).config = s.config := rfl
@[simp] theorem hostArrive_ring (p : Packet) (s : State) : (hostArrive p s).ring = s.ring := rfl
@[simp] theorem hostArrive_parser (p : Packet) (s : State) : (hostArrive p s).parser = s.parser := rfl
@[simp] theorem hostArrive_mbx (p : Packet) (s : State) : (hostArrive p s).mbx = s.mbx := rfl
@[simp] theorem hostArrive_chmap (p : Packet) (s : State) : (hostArrive p s).chmap = s.chmap := rfl
@[simp] theorem hostArrive_rtDrop (p : Packet) (s : State) : (hostArrive p s).rtDrop = s.rtDrop := rfl
@[simp] theorem hostArrive_link (p : Packet) (s : State) : (hostArrive p s).link = s.link := rfl
@[simp] theorem hostArrive_seq (p : Packet) (s : State) : (hostArrive p s).seq = s.seq := rfl
@[simp] theorem hostArrive_active (p : Packet) (s : State) : (hostArrive p s).active = s.active := rfl
@[simp] theorem hostArrive_initFail (p : Packet) (s : State) : (hostArrive p s).initFail = s.initFail := rfl
@[simp] theorem hostArrive_out (p : Packet) (s : State) : (hostArrive p s).out = s.out := rfl
@[simp] theorem hostArrive_env_now (p : Packet) (s : State) : (hostArrive p s).env.now = s.env.now := rfl
@[simp] theorem hostArrive_env_serialIn (p : Packet) (s : State) : (hostArrive p s).env.serialIn = s.env.serialIn := rfl
@[simp] theorem hostArrive_env_hostIn (p : Packet) (s : State) : (hostArrive p s).env.hostIn = s.env.hostIn ++ [p] := rfl
@[simp] theorem hostArrive_env_hostReady (p : Packet) (s : State) : (hostArrive p s).env.hostReady = s.env.hostReady := rfl
@[simp] theorem hostArrive_env_transportOk (p : Packet) (s : State) : (hostArrive p s).env.transportOk = s.env.transportOk := rfl
@[simp] theorem hostArrive_env_failedTransport (p : Packet) (s : State) : (hostArrive p s).env.failedTransport = s.env.failedTransport := rfl
@[simp] theorem hostArrive_env_sched (p : Packet) (s : State) : (hostArrive p s).env.sched = s.env.sched := rfl

@[simp] theorem setHostReady_config (v : Bool) (s : State) : (setHostReady v s).config = s.config := rfl
@[simp] theorem setHostReady_ring (v : Bool) (s : State) : (setHostReady v s).ring = s.ring := rfl
@[simp] theorem setHostReady_parser (v : Bool) (s : State) : (setHostReady v s).parser = s.parser := rfl
@[simp] theorem setHostReady_mbx (v : Bool) (s : State) : (setHostReady v s).mbx = s.mbx := rfl
@[simp] theorem setHostReady_chmap (v : Bool) (s : State) : (setHostReady v s).chmap = s.chmap := rfl
@[simp] theorem setHostReady_rtDrop (v : Bool) (s : State) : (setHostReady v s).rtDrop = s.rtDrop := rfl
@[simp] theorem setHostReady_link (v : Bool) (s : State) : (setHostReady v s).link = s.link := rfl
@[simp] theorem setHostReady_seq (v : Bool) (s : State) : (setHostReady v s).seq = s.seq := rfl
@[simp] theorem setHostReady_active (v : Bool) (s : State) : (setHostReady v s).active = s.active := rfl
@[simp] theorem setHostReady_initFail (v : Bool) (s : State) : (setHostReady v s).initFail = s.initFail := rfl
@[simp] theorem setHostReady_out (v : Bool) (s : State) : (setHostReady v s).out = s.out := rfl
@[simp] theorem setHostReady_env_now (v : Bool) (s : State) : (setHostReady v s).env.now = s.env.now := rfl
@[simp] theorem setHostReady_env_serialIn (v : Bool) (s : State) : (setHostReady v s).env.serialIn = s.env.serialIn := rfl
@[simp] theorem setHostReady_env_hostIn (v : Bool) (s : State) : (setHostReady v s).env.hostIn = s.env.hostIn := rfl
@[simp] theorem setHostReady_env_hostReady (v : Bool) (s : State) : (setHostReady v s).env.hostReady = v := rfl
@[simp] theorem setHostReady_env_transportOk (v : Bool) (s : State) : (setHostReady v s).env.transportOk = s.env.transportOk := rfl
@[simp] theorem setHostReady_env_failedTransport (v : Bool) (s : State) : (setHostReady v s).env.failedTransport = s.env.failedTransport := rfl
@[simp] theorem setHostReady_env_sched (v : Bool) (s : State) : (setHostReady v s).env.sched = s.env.sched := rfl

@[simp] theorem serialArrive_config (b : Byte) (s : State) : (serialArrive b s).config = s.config := rfl
@[simp] theorem serialArrive_ring (b : Byte) (s : State) : (serialArrive b s).ring = s.ring := rfl
@[simp] theorem serialArrive_parser (b : Byte) (s : State) : (serialArrive b s).parser = s.parser := rfl
@[simp] theorem serialArrive_mbx (b : Byte) (s : State) : (serialArrive b s).mbx = s.mbx := rfl
@[simp] theorem serialArrive_chmap (b : Byte) (s : State) : (serialArrive b s).chmap = s.chmap := rfl
@[simp] theorem serialArrive_rtDrop (b : Byte) (s : State) : (serialArrive b s).rtDrop = s.rtDrop := rfl
@[simp] theorem serialArrive_link (b : Byte) (s : State) : (serialArrive b s).link = s.link := rfl
@[simp] theorem serialArrive_seq (b : Byte) (s : State) : (serialArrive b s).seq = s.seq := rfl
@[simp] theorem serialArrive_active (b : Byte) (s : State) : (serialArrive b s).active = s.active := rfl
@[simp] theorem serialArrive_initFail (b : Byte) (s : State) : (serialArrive b s).initFail = s.initFail := rfl
@[simp] theorem serialArrive_out (b : Byte) (s : State) : (serialArrive b s).out = s.out := rfl
@[simp] theorem serialArrive_env_now (b : Byte) (s : State) : (serialArrive b s).env.now = s.env.now := rfl
@[simp] theorem serialArrive_env_serialIn (b : Byte) (s : State) : (serialArrive b s).env.serialIn = s.env.serialIn ++ [b] := rfl
@[simp] theorem serialArrive_env_hostIn (b : Byte) (s : State) : (serialArrive b s).env.hostIn = s.env.hostIn := rfl
@[simp] theorem serialArrive_env_hostReady (b : Byte) (s : State) : (serialArrive b s).env.hostReady = s.env.hostReady := rfl
@[simp] theorem serialArrive_env_transportOk (b : Byte) (s : State) : (serialArrive b s).env.transportOk = s.env.transportOk := rfl
@[simp] theorem serialArrive_env_failedTransport (b : Byte) (s : State) : (serialArrive b s).env.failedTransport = s.env.failedTransport := rfl
@[simp] theorem serialArrive_env_sched (b : Byte) (s : State) : (serialArrive b s).env.sched = s.env.sched := rfl

@[simp] theorem setTransportOk_config (v : Bool) (s : State) : (setTransportOk v s).config = s.config := rfl
@[simp] theorem setTransportOk_ring (v : Bool) (s : State) : (setTransportOk v s).ring = s.ring := rfl
@[simp] theorem setTransportOk_parser (v : Bool) (s : State) : (setTransportOk v s).parser = s.parser := rfl
@[simp] theorem setTransportOk_mbx (v : Bool) (s : State) : (setTransportOk v s).mbx = s.mbx := rfl
@[simp] theorem setTransportOk_chmap (v : Bool) (s : State) : (setTransportOk v s).chmap = s.chmap := rfl
@[simp] theorem setTransportOk_rtDrop (v : Bool) (s : State) : (setTransportOk v s).rtDrop = s.rtDrop := rfl
@[simp] theorem setTransportOk_link (v : Bool) (s : State) : (setTransportOk v s).link = s.link := rfl
@[simp] theorem setTransportOk_seq (v : Bool) (s : State) : (setTransportOk v s).seq = s.seq := rfl
@[simp] theorem setTransportOk_active (v : Bool) (s : State) : (setTransportOk v s).active = s.active := rfl
@[simp] theorem setTransportOk_initFail (v : Bool) (s : State) : (setTransportOk v s).initFail = s.initFail := rfl
@[simp] theorem setTransportOk_out (v : Bool) (s : State) : (setTransportOk v s).out = s.out := rfl
@[simp] theorem setTransportOk_env_now (v : Bool) (s : State) : (setTransportOk v s).env.now = s.env.now := rfl
@[simp] theorem setTransportOk_env_serialIn (v : Bool) (s : State) : (setTransportOk v s).env.serialIn = s.env.serialIn := rfl
@[simp] theorem setTransportOk_env_hostIn (v : Bool) (s : State) : (setTransportOk v s).env.hostIn = s.env.hostIn := rfl
@[simp] theorem setTransportOk_env_hostReady (v : Bool) (s : State) : (setTransportOk v s).env.hostReady = s.env.hostReady := rfl
@[simp] theorem setTransportOk_env_transportOk (v : Bool) (s : State) : (setTransportOk v s).env.transportOk = v := rfl
@[simp] theorem setTransportOk_env_failedTransport (v : Bool) (s : State) : (setTransportOk v s).env.failedTransport = s.env.failedTransport := rfl
@[simp] theorem setTransportOk_env_sched (v : Bool) (s : State) : (setTransportOk v s).env.sched = s.env.sched := rfl

@[simp] theorem setTransportFailed_config (which : Transport) (s : State) : (setTransportFailed which s).config = s.config := rfl
@[simp] theorem setTransportFailed_ring (which : Transport) (s : State) : (setTransportFailed which s).ring = s.ring := rfl
@[simp] theorem setTransportFailed_parser (which : Transport) (s : State) : (setTransportFailed which s).parser = s.parser := rfl
@[simp] theorem setTransportFailed_mbx (which : Transport) (s : State) : (setTransportFailed which s).mbx = s.mbx := rfl
@[simp] theorem setTransportFailed_chmap (which : Transport) (s : State) : (setTransportFailed which s).chmap = s.chmap := rfl
@[simp] theorem setTransportFailed_rtDrop (which : Transport) (s : State) : (setTransportFailed which s).rtDrop = s.rtDrop := rfl
@[simp] theorem setTransportFailed_link (which : Transport) (s : State) : (setTransportFailed which s).link = s.link := rfl
@[simp] theorem setTransportFailed_seq (which : Transport) (s : State) : (setTransportFailed which s).seq = s.seq := rfl
@[simp] theorem setTransportFailed_active (which : Transport) (s : State) : (setTransportFailed which s).active = s.active := rfl
@[simp] theorem setTransportFailed_initFail (which : Transport) (s : State) : (setTransportFailed which s).initFail = s.initFail := rfl
@[simp] theorem setTransportFailed_out (which : Transport) (s : State) : (setTransportFailed which s).out = s.out := rfl
@[simp] theorem setTransportFailed_env_now (which : Transport) (s : State) : (setTransportFailed which s).env.now = s.env.now := rfl
@[simp] theorem setTransportFailed_env_serialIn (which : Transport) (s : State) : (setTransportFailed which s).env.serialIn = s.env.serialIn := rfl
@[simp] theorem setTransportFailed_env_hostIn (which : Transport) (s : State) : (setTransportFailed which s).env.hostIn = s.env.hostIn := rfl
@[simp] theorem setTransportFailed_env_hostReady (which : Transport) (s : State) : (setTransportFailed which s).env.hostReady = s.env.hostReady := rfl
@[simp] theorem setTransportFailed_env_transportOk (which : Transport) (s : State) : (setTransportFailed which s).env.transportOk = s.env.transportOk := rfl
@[simp] theorem setTransportFailed_env_failedTransport (which : Transport) (s : State) : (setTransportFailed which s).env.failedTransport = which := rfl
@[simp] theorem setTransportFailed_env_sched (which : Transport) (s : State) : (setTransportFailed which s).env.sched = s.env.sched := rfl

/-! ### The codes of the events (spec/60_exceptions.md R260) -/

@[simp] theorem code_ringOverflow (b : Byte) : (Event.ringOverflow b).code = 1 := rfl
@[simp] theorem code_mailboxOverwrite (m : Message) : (Event.mailboxOverwrite m).code = 2 := rfl
@[simp] theorem code_hostNotReady (m : Message) : (Event.hostNotReady m).code = 3 := rfl
@[simp] theorem code_strayData (b : Byte) : (Event.strayData b).code = 4 := rfl
@[simp] theorem code_sysexDiscard (b : Byte) : (Event.sysexDiscard b).code = 5 := rfl
@[simp] theorem code_partialAbandoned (b : Byte) : (Event.partialAbandoned b).code = 6 := rfl
@[simp] theorem code_undefinedStatus (b : Byte) : (Event.undefinedStatus b).code = 7 := rfl
@[simp] theorem code_policyDrop (m : Message) : (Event.policyDrop m).code = 8 := rfl
@[simp] theorem code_packetNull (p : Packet) : (Event.packetNull p).code = 9 := rfl
@[simp] theorem code_initFailure (w : Transport) : (Event.initFailure w).code = 10 := rfl

end Sys2Proof.Machine
end

