-- ==== Sys2Proof/Laws/Gates.lean ====
section
/-! SUPPORT. What the gates can answer. -/

namespace Sys2Proof.Machine

open Sys2Proof

variable {op : State → State} {s t : State} {m : Message} {c : Call}

theorem pollFree_iff : pollFree s = true ↔ s.active = true ∧ s.seq.txPend = [] ∧ s.seq.calls = [] := by
  simp [pollFree, and_assoc]

theorem onPoll_free (h : pollFree s = true) : onPoll op s = .next (op s) := by simp [onPoll, h]

theorem onPoll_busy (h : pollFree s = false) : onPoll op s = .next s := by simp [onPoll, h]

theorem onPoll_next (h : onPoll op s = .next t) : (pollFree s = true ∧ t = op s) ∨ t = s := by
  unfold onPoll at h
  split at h
  · exact .inl ⟨‹_›, by simpa using h.symm⟩
  · exact .inr (by simpa using h.symm)

theorem onMessage_ok (h : msgOk m = true) : onMessage m op s = onPoll op s := by simp [onMessage, h]

theorem onMessage_next (h : onMessage m op s = .next t) :
    (msgOk m = true ∧ pollFree s = true ∧ t = op s) ∨ t = s := by
  unfold onMessage at h
  split at h
  · rcases onPoll_next h with ⟨hf, rfl⟩ | rfl
    · exact .inl ⟨‹_›, hf, rfl⟩
    · exact .inr rfl
  · simp at h

theorem onVoiceMessage_ok (h : msgIsVoice m = true) : onVoiceMessage m op s = onPoll op s := by
  simp [onVoiceMessage, h]

theorem onVoiceMessage_next (h : onVoiceMessage m op s = .next t) :
    (msgIsVoice m = true ∧ pollFree s = true ∧ t = op s) ∨ t = s := by
  unfold onVoiceMessage at h
  split at h
  · rcases onPoll_next h with ⟨hf, rfl⟩ | rfl
    · exact .inl ⟨‹_›, hf, rfl⟩
    · exact .inr rfl
  · simp at h

/-- A call begins at once when the poll context is free. -/
theorem makeCall_free (h : pollFree s = true) :
    makeCall c s = .next (beginCall c s) := by
  have ha := (pollFree_iff.1 h).1
  simp [makeCall, h, ha]

theorem makeCall_next (h : makeCall c s = .next t) :
    t = s ∨ (pollFree s = true ∧ t = beginCall c s) ∨
      (s.active = true ∧ t = { s with seq := { s.seq with calls := s.seq.calls ++ [c] } }) := by
  unfold makeCall at h
  split at h
  · split at h
    · exact .inr (.inl ⟨‹_›, by simpa using h.symm⟩)
    · exact .inr (.inr ⟨‹_›, by simpa using h.symm⟩)
  · exact .inl (by simpa using h.symm)

end Sys2Proof.Machine
end

