-- ==== Sys2Proof/Laws/Rows.lean ====
section
/-! SUPPORT. The rows of the byte stream all mean `PARSE` of their byte, and the packet rows all mean the host step of
their packet, so that a proof over the rows has one case for each space. -/

namespace Sys2Proof.Machine

open Sys2Proof

/-! ### Bits -/

theorem isChannelVoice_join (hi ch : Nibble) (h : 0x8#4 ≤ hi ∧ hi ≤ 0xE#4) : isChannelVoice (joinNibbles hi ch) = true := by
  revert hi ch; decide

theorem isStatus_of_voice {b : Byte} (h : isChannelVoice b = true) : isStatus b = true := by
  revert b; decide

theorem not_realTime_of_voice {b : Byte} (h : isChannelVoice b = true) : isRealTime b = false := by
  revert b; decide

theorem voice_ne_F7 {b : Byte} (h : isChannelVoice b = true) : b ≠ 0xF7#8 := by
  revert b; decide

theorem dataByte_not_status (v : Data7) : isStatus (dataByte v) = false := by revert v; decide

theorem dataByte_not_realTime (v : Data7) : isRealTime (dataByte v) = false := by revert v; decide

theorem dataByte_ne_F7 (v : Data7) : dataByte v ≠ 0xF7#8 := by revert v; decide

theorem loNibble_join (hi lo : Nibble) : loNibble (joinNibbles hi lo) = lo := by revert hi lo; decide

theorem hiNibble_join (hi lo : Nibble) : hiNibble (joinNibbles hi lo) = hi := by revert hi lo; decide

theorem join_nibbles (b : Byte) : joinNibbles (hiNibble b) (loNibble b) = b := by revert b; decide

/-! ### Stream rows -/

/-- A status byte other than `F7`, with the rule `PARSE` gives it outside a block. -/
theorem statusByRule_parse {b : Byte} {s : State} (hs : isStatus b = true) (hr : isRealTime b = false) (h7 : b ≠ 0xF7#8) :
    statusByRule b (parseStatus b) s = parse b s := by
  unfold statusByRule parse inBlock
  simp only [hr, hs, h7, if_false, if_true, Bool.and_true, Bool.false_eq_true]

theorem voiceRow_parse {hi ch : Nibble} (h : 0x8#4 ≤ hi ∧ hi ≤ 0xE#4) (s : State) :
    voiceRow hi ch s = onPoll (parse (joinNibbles hi ch)) s := by
  have hv := isChannelVoice_join hi ch h
  have hp : parseStatus (joinNibbles hi ch) = cvStatus (joinNibbles hi ch) := by
    funext t; simp [parseStatus, hv]
  unfold voiceRow
  rw [← hp]
  congr 1
  funext t
  exact statusByRule_parse (isStatus_of_voice hv) (not_realTime_of_voice hv) (voice_ne_F7 hv)

/-- A data row means `PARSE` of its byte: where its guard holds it is the case of `parseData` the guard names. -/
theorem dataRow_parse {sel : State → Bool} {act : Byte → State → State} {v : Data7} (s : State)
    (h : ∀ t, sel t = true → act (dataByte v) t = parseData (dataByte v) t) :
    dataRow sel act v s = onPoll (parse (dataByte v)) s := by
  unfold dataRow
  congr 1
  funext t
  have : (if sel t = true then act (dataByte v) t else parseData (dataByte v) t) = parseData (dataByte v) t := by
    split
    · exact h t ‹_›
    · rfl
  rw [this]
  unfold parse
  simp only [dataByte_not_realTime, dataByte_not_status, Bool.false_eq_true, if_false]
  split
  · rename_i hi
    unfold inBlock parseData
    simp only [hi, dataByte_ne_F7, dataByte_not_status, if_false, Bool.and_false, Bool.false_eq_true]
  · rfl

theorem terminator_parse (s : State) :
    (if s.parser.st = .ignoringSystemBlock then leaveBlock s else sysUndefined 0xF7#8 s) = parse 0xF7#8 s := by
  unfold parse inBlock
  have h1 : isRealTime 0xF7#8 = false := by decide
  have h2 : isStatus 0xF7#8 = true := by decide
  simp only [h1, h2, if_true, if_false, Bool.false_eq_true]
  rfl

theorem inBlockStatus_parse (low : Data7) (s : State) :
    (if s.parser.st = .ignoringSystemBlock ∧ s.config.sysexAborts = false ∧ statusByte low < 0xF7#8 then
      sysexDiscard (statusByte low) s else parse (statusByte low) s) = parse (statusByte low) s := by
  split
  · rename_i h
    obtain ⟨hi, ha, hl⟩ := h
    have hr : isRealTime (statusByte low) = false := by revert hl; revert low; decide
    have h7 : statusByte low ≠ 0xF7#8 := fun he => by rw [he] at hl; exact absurd hl (by decide)
    unfold parse inBlock
    simp only [hi, ha, hr, h7, if_true, if_false, Bool.false_and, Bool.false_eq_true]
  · rfl

/-- Every row of the byte stream means `PARSE` of its byte (spec/41_parser.md R120, spec/30_encoding.md R100). -/
theorem exec_streamRow {i : Instr} {b : Byte} (h : encode i = some (.stream, [b])) (s : State) :
    exec i s = onPoll (parse b) s := by
  cases i <;> simp [encode, encodeStreamRow, encodePacketRow] at h <;> subst h
  case noteOffStatus ch => exact voiceRow_parse (by decide) s
  case noteOnStatus ch => exact voiceRow_parse (by decide) s
  case polyPressureStatus ch => exact voiceRow_parse (by decide) s
  case controlChangeStatus ch => exact voiceRow_parse (by decide) s
  case programChangeStatus ch => exact voiceRow_parse (by decide) s
  case channelPressureStatus ch => exact voiceRow_parse (by decide) s
  case pitchBendStatus ch => exact voiceRow_parse (by decide) s
  case sysexStart => exact congrArg (onPoll · s) (funext fun t => statusByRule_parse (by decide) (by decide) (by decide))
  case sysF1 => exact congrArg (onPoll · s) (funext fun t => statusByRule_parse (by decide) (by decide) (by decide))
  case sysF2 => exact congrArg (onPoll · s) (funext fun t => statusByRule_parse (by decide) (by decide) (by decide))
  case sysF3 => exact congrArg (onPoll · s) (funext fun t => statusByRule_parse (by decide) (by decide) (by decide))
  case undefF4 => exact congrArg (onPoll · s) (funext fun t => statusByRule_parse (by decide) (by decide) (by decide))
  case undefF5 => exact congrArg (onPoll · s) (funext fun t => statusByRule_parse (by decide) (by decide) (by decide))
  case tuneRequest => exact congrArg (onPoll · s) (funext fun t => statusByRule_parse (by decide) (by decide) (by decide))
  case strayF7 => exact congrArg (onPoll · s) (funext terminator_parse)
  case sysexEnd => exact congrArg (onPoll · s) (funext terminator_parse)
  case inBlockStatus low => exact congrArg (onPoll · s) (funext (inBlockStatus_parse low))
  case rtF8 => rfl
  case rtF9 => rfl
  case rtFA => rfl
  case rtFB => rfl
  case rtFC => rfl
  case rtFD => rfl
  case rtFE => rfl
  case rtFF => rfl
  case dataResume v =>
    show execDataResume v s = _
    unfold execDataResume
    refine dataRow_parse s (fun t ht => ?_)
    simp at ht
    simp [parseData, ht]
  case dataFirst v =>
    show execDataFirst v s = _
    unfold execDataFirst
    refine dataRow_parse s (fun t ht => ?_)
    simp at ht
    simp [parseData, ht]
  case dataSecond v =>
    show execDataSecond v s = _
    unfold execDataSecond
    refine dataRow_parse s (fun t ht => ?_)
    simp at ht
    simp [parseData, ht]
  case dataStray v =>
    show execDataStray v s = _
    unfold execDataStray
    refine dataRow_parse s (fun t ht => ?_)
    simp at ht
    simp [parseData, ht]
  case dataInBlock v =>
    show execDataInBlock v s = _
    unfold execDataInBlock
    refine dataRow_parse s (fun t ht => ?_)
    simp at ht
    simp [parseData, ht]

/-! ### Packet rows -/

theorem nullRow_host {cin cn : Nibble} {p1 p2 p3 : Byte} (h : cinLen cin = 0) (s : State) :
    nullRow cin cn p1 p2 p3 s = onPoll (hostPacket { p0 := joinNibbles cn cin, p1, p2, p3 }) s := by
  unfold nullRow
  congr 1
  funext t
  simp [hostPacket, hostMessage, decodeMsg, decodeCounted, packetCin, loNibble_join, h]

theorem packetRow_host {cin cn : Nibble} {n : Nat} {p1 p2 p3 : Byte} (h : cinLen cin = n) (s : State) :
    packetRow cin n cn p1 p2 p3 s = onPoll (hostPacket { p0 := joinNibbles cn cin, p1, p2, p3 }) s := by
  unfold packetRow
  congr 1
  funext t
  simp [hostPacket, decodeMsg, packetCin, loNibble_join, h]

/-- Every packet row means the host step of its packet (spec/45_poll_loop.md R241, R244). -/
theorem exec_packetRow {i : Instr} {p : Packet} (h : encode i = some (.packet, [p.p0, p.p1, p.p2, p.p3])) (s : State) :
    exec i s = onPoll (hostPacket p) s := by
  obtain ⟨p0, p1, p2, p3⟩ := p
  cases i <;> simp [encode, encodeStreamRow, encodePacketRow] at h
  all_goals
    obtain ⟨rfl, rfl, rfl, rfl⟩ := h
    first
      | exact nullRow_host (by decide) s
      | exact packetRow_host (by decide) s

end Sys2Proof.Machine
end

