-- ==== Sys2Proof/Laws/Frames.lean ====
section
/-! SUPPORT. What the operations leave unchanged: the router, the parser and the host step write the parser, the mailbox,
the drop counter, `tx_pend`, `host_out` and the event log, and nothing else; a step of the sequencer, the link and the ring
write what their own lemmas say. -/

namespace Sys2Proof.Machine

open Sys2Proof

/-- What no routing or parsing operation changes. -/
structure ParserFrame (s t : State) : Prop where
  config : t.config = s.config
  ring : t.ring = s.ring
  chmap : t.chmap = s.chmap
  link : t.link = s.link
  phase : t.seq.phase = s.seq.phase
  calls : t.seq.calls = s.seq.calls
  flushT0 : t.seq.flushT0 = s.seq.flushT0
  active : t.active = s.active
  initFail : t.initFail = s.initFail
  env : t.env = s.env
  linkOut : t.out.linkOut = s.out.linkOut
  pulseOut : t.out.pulseOut = s.out.pulseOut
  sent : t.out.sent = s.out.sent
  resp : t.out.resp = s.out.resp

namespace ParserFrame

theorem rfl' (s : State) : ParserFrame s s := by constructor <;> rfl

theorem trans' {s t u : State} (h : ParserFrame s t) (g : ParserFrame t u) : ParserFrame s u :=
  ⟨g.config.trans h.config, g.ring.trans h.ring, g.chmap.trans h.chmap, g.link.trans h.link, g.phase.trans h.phase,
    g.calls.trans h.calls, g.flushT0.trans h.flushT0, g.active.trans h.active, g.initFail.trans h.initFail,
    g.env.trans h.env, g.linkOut.trans h.linkOut, g.pulseOut.trans h.pulseOut, g.sent.trans h.sent, g.resp.trans h.resp⟩

end ParserFrame

/-- What a routing operation also leaves unchanged: the parser and the mailbox. -/
structure RouterFrame (s t : State) : Prop extends ParserFrame s t where
  parser : t.parser = s.parser
  mbx : t.mbx = s.mbx

theorem RouterFrame.rfl' (s : State) : RouterFrame s s := ⟨ParserFrame.rfl' s, rfl, rfl⟩

theorem RouterFrame.trans' {s t u : State} (h : RouterFrame s t) (g : RouterFrame t u) : RouterFrame s u :=
  ⟨h.toParserFrame.trans' g.toParserFrame, g.parser.trans h.parser, g.mbx.trans h.mbx⟩

theorem raise_frame (e : Event) (s : State) : RouterFrame s (raise e s) :=
  ⟨by constructor <;> rfl, rfl, rfl⟩

theorem policyDrop_frame (m : Message) (s : State) : RouterFrame s (policyDrop m s) :=
  ⟨by constructor <;> rfl, rfl, rfl⟩

theorem forward_frame (m : Message) (e : Fin nInt) (s : State) : RouterFrame s (forward m e s) :=
  ⟨by constructor <;> rfl, rfl, rfl⟩

theorem mirror_frame (m : Message) (s : State) : RouterFrame s (mirror m s) := by
  unfold mirror
  split
  · exact ⟨by constructor <;> rfl, rfl, rfl⟩
  · exact raise_frame _ s

theorem route_frame (m : Message) (s : State) : RouterFrame s (route m s) := by
  unfold route
  split
  · split
    · exact forward_frame _ _ s
    · exact policyDrop_frame _ s
  · exact .rfl' s

theorem onParserMessage_frame (m : Message) (s : State) : RouterFrame s (onParserMessage m s) :=
  (mirror_frame m s).trans' (route_frame m _)

theorem onHostMessage_frame (m : Message) (s : State) : RouterFrame s (onHostMessage m s) := route_frame m s

theorem hostMessage_frame (p : Packet) (m : Message) (s : State) : RouterFrame s (hostMessage p m s) := by
  unfold hostMessage
  split
  · exact raise_frame _ s
  · exact onHostMessage_frame m s

theorem hostPacket_frame (p : Packet) (s : State) : RouterFrame s (hostPacket p s) := hostMessage_frame p _ s

/-! ### Delivery -/

/-- `DELIVER` writes the mailbox, and what the router writes. -/
theorem deliver_frame (m : Message) (s : State) : ParserFrame s (deliver m s) := by
  refine (onParserMessage_frame m s).toParserFrame.trans' ?_
  unfold deliver
  dsimp only
  split
  · exact ⟨rfl, rfl, rfl, rfl, rfl, rfl, rfl, rfl, rfl, rfl, rfl, rfl, rfl, rfl⟩
  · exact ⟨rfl, rfl, rfl, rfl, rfl, rfl, rfl, rfl, rfl, rfl, rfl, rfl, rfl, rfl⟩

theorem deliver_parser (m : Message) (s : State) : (deliver m s).parser = s.parser := by
  have h := (onParserMessage_frame m s).parser
  unfold deliver
  dsimp only
  split
  · exact h
  · exact h

theorem deliver_mbx (m : Message) (s : State) : (deliver m s).mbx = { full := true, msg := m } := by
  unfold deliver
  rfl

theorem deliver_seq (m : Message) (s : State) : (deliver m s).seq = (onParserMessage m s).seq := by
  unfold deliver
  dsimp only
  split <;> rfl

theorem deliver_rtDrop (m : Message) (s : State) : (deliver m s).rtDrop = (onParserMessage m s).rtDrop := by
  unfold deliver
  dsimp only
  split <;> rfl

theorem deliver_hostOut (m : Message) (s : State) : (deliver m s).out.hostOut = (onParserMessage m s).out.hostOut := by
  unfold deliver
  dsimp only
  split <;> rfl

/-- A change of the parser alone. -/
theorem setParser_frame (s : State) (p : Parser) : ParserFrame s { s with parser := p } :=
  ⟨rfl, rfl, rfl, rfl, rfl, rfl, rfl, rfl, rfl, rfl, rfl, rfl, rfl, rfl⟩

theorem complete_frame (s : State) : ParserFrame s (complete s) :=
  (setParser_frame s { s.parser with accLen := 0, accNeed := 0, st := .idle }).trans' (deliver_frame _ _)

theorem complete_parser (s : State) :
    (complete s).parser = { s.parser with accLen := 0, accNeed := 0, st := .idle } := deliver_parser _ _

/-! ### The parser's rules -/

theorem abandon_frame (s : State) : RouterFrame s (abandon s) := by
  unfold abandon
  split
  · exact raise_frame _ s
  · exact .rfl' s

theorem cvStatus_frame (b : Byte) (s : State) : ParserFrame s (cvStatus b s) :=
  (abandon_frame s).toParserFrame.trans' (setParser_frame _ _)

theorem sysCommon_frame (s : State) : ParserFrame s (sysCommon s) :=
  (abandon_frame s).toParserFrame.trans' (setParser_frame _ _)

theorem sysLoad_frame (b : Byte) (n : Nat) (s : State) : ParserFrame s (sysLoad b n s) :=
  (sysCommon_frame s).trans' (setParser_frame _ _)

theorem sysEmpty_frame (st : ParserState) (s : State) : ParserFrame s (sysEmpty st s) :=
  (sysCommon_frame s).trans' (setParser_frame _ _)

theorem sysUndefined_frame (b : Byte) (s : State) : ParserFrame s (sysUndefined b s) :=
  (sysEmpty_frame _ s).trans' (raise_frame _ _).toParserFrame

theorem sysTune_frame (s : State) : ParserFrame s (sysTune s) := (sysEmpty_frame _ s).trans' (deliver_frame _ _)

theorem sysStatus_frame (b : Byte) (s : State) : ParserFrame s (sysStatus b s) := by
  unfold sysStatus
  split
  · exact sysEmpty_frame _ s
  · exact sysLoad_frame _ _ s
  · exact sysLoad_frame _ _ s
  · exact sysLoad_frame _ _ s
  · exact sysUndefined_frame _ s
  · exact sysUndefined_frame _ s
  · exact sysTune_frame s
  · exact sysUndefined_frame _ s

theorem parseStatus_frame (b : Byte) (s : State) : ParserFrame s (parseStatus b s) := by
  unfold parseStatus
  split
  · exact cvStatus_frame b s
  · exact sysStatus_frame b s

theorem leaveBlock_frame (s : State) : ParserFrame s (leaveBlock s) := setParser_frame _ _

theorem inBlock_frame (b : Byte) (s : State) : ParserFrame s (inBlock b s) := by
  unfold inBlock
  split
  · exact leaveBlock_frame s
  · split
    · exact (leaveBlock_frame s).trans' (parseStatus_frame b _)
    · exact (raise_frame _ s).toParserFrame

theorem dataFirst_frame (b : Byte) (s : State) : ParserFrame s (dataFirst b s) := by
  unfold dataFirst
  dsimp only
  split
  · exact (setParser_frame s _).trans' (complete_frame _)
  · exact setParser_frame s _

theorem dataSecond_frame (b : Byte) (s : State) : ParserFrame s (dataSecond b s) :=
  (setParser_frame s _).trans' (complete_frame _)

theorem dataResume_frame (b : Byte) (s : State) : ParserFrame s (dataResume b s) :=
  (setParser_frame s _).trans' (dataFirst_frame b _)

theorem parseData_frame (b : Byte) (s : State) : ParserFrame s (parseData b s) := by
  unfold parseData
  split
  · exact dataFirst_frame b s
  · exact dataSecond_frame b s
  · exact (raise_frame _ s).toParserFrame
  · split
    · exact dataResume_frame b s
    · exact (raise_frame _ s).toParserFrame

/-- `PARSE` writes the parser, the mailbox, `rt_drop_count`, `tx_pend`, `host_out` and the event log, and nothing else. -/
theorem parse_frame (b : Byte) (s : State) : ParserFrame s (parse b s) := by
  unfold parse
  split
  · exact deliver_frame _ s
  · split
    · exact inBlock_frame b s
    · split
      · exact parseStatus_frame b s
      · exact parseData_frame b s

/-- A real-time byte leaves the parser as it is (spec/41_parser.md R129). -/
theorem realTime_parser (b : Byte) (s : State) : (realTime b s).parser = s.parser := deliver_parser _ s

/-! ### `tx_pend` and the drop counter -/

/-- `ROUTE` either forwards to the enabled id of the message's channel, or drops and counts, or ignores a message that is
not channel-voice (spec/43_router.md R202, R207). -/
theorem route_cases (m : Message) (s : State) :
    (∃ e, isChannelVoice (msgStatus m) = true ∧ mapTarget m s = some e ∧ route m s = forward m e s) ∨
      (isChannelVoice (msgStatus m) = true ∧ mapTarget m s = none ∧ route m s = policyDrop m s) ∨
      (isChannelVoice (msgStatus m) = false ∧ route m s = s) := by
  unfold route
  split
  · split
    · exact .inl ⟨_, ‹_›, ‹_›, rfl⟩
    · exact .inr (.inl ⟨‹_›, ‹_›, rfl⟩)
  · rename_i h
    exact .inr (.inr ⟨by simpa using h, rfl⟩)

theorem mirror_txPend (m : Message) (s : State) : (mirror m s).seq = s.seq := by
  unfold mirror
  split <;> rfl

theorem mirror_rtDrop (m : Message) (s : State) : (mirror m s).rtDrop = s.rtDrop := by
  unfold mirror
  split <;> rfl

theorem mapTarget_mirror (m n : Message) (s : State) : mapTarget m (mirror n s) = mapTarget m s := by
  unfold mapTarget mapEntry
  rw [(mirror_frame n s).chmap]

/-- A message of at most three raw bytes loads at most three bytes. -/
theorem forwardBytes_length {m : Message} (h : msgOk m = true) (e : Fin nInt) : (forwardBytes m e).length = msgLength m := by
  unfold msgOk at h
  split at h
  · simp at h
  · rename_i s ds hr
    simp [forwardBytes, msgLength, hr]

theorem lenOf_le {b : Byte} {n : Nat} (h : lenOf b = some n) : n ≤ 3 := by
  have : ∀ b : Byte, ∀ n ∈ lenOf b, n ≤ 3 := by decide
  exact this b n h

theorem msgOk_length {m : Message} (h : msgOk m = true) : 1 ≤ msgLength m ∧ msgLength m ≤ 3 := by
  unfold msgOk at h
  split at h
  · simp at h
  · rename_i s ds hr
    have hl : lenOf s = some (ds.length + 1) := by simp at h; exact h.1
    have := lenOf_le hl
    simp [msgLength, hr]
    omega

theorem route_txPend_le {m : Message} (hm : msgOk m = true) {s : State} (h : s.seq.txPend.length ≤ 3) :
    (route m s).seq.txPend.length ≤ 3 := by
  rcases route_cases m s with ⟨e, -, -, he⟩ | ⟨-, -, he⟩ | ⟨-, he⟩ <;> rw [he]
  · have := forwardBytes_length hm e
    have := msgOk_length hm
    simp only [forward_seq_txPend]
    omega
  · exact h
  · exact h

theorem deliver_txPend_le {m : Message} (hm : msgOk m = true) {s : State} (h : s.seq.txPend.length ≤ 3) :
    (deliver m s).seq.txPend.length ≤ 3 := by
  rw [deliver_seq]
  refine route_txPend_le hm ?_
  rw [mirror_txPend]
  exact h

end Sys2Proof.Machine
end

