-- ==== Sys2Proof/Laws/Effect.lean ====
section
/-! SUPPORT. Everything one instruction, and one step, can do: the inversion lemmas that invariants are derived from. -/

namespace Sys2Proof.Machine

open Sys2Proof

/-- What an instruction that answers a next state has done. One constructor per shared operation. -/
inductive Effect (s : State) : State → Prop
  | stay : Effect s s
  | parsed (b : Byte) (h : pollFree s = true) : Effect s (parse b s)
  | hosted (p : Packet) (h : pollFree s = true) : Effect s (hostPacket p s)
  | responded (r : Response) (h : pollFree s = true) : Effect s (respond r s)
  | decodedNull (p : Packet) (r : Response) (h : pollFree s = true) : Effect s (respond r (raise (.packetNull p) s))
  | delivered (m : Message) (hm : msgOk m = true) (h : pollFree s = true) : Effect s (deliver m s)
  | listened (m : Message) (hm : msgOk m = true) (h : pollFree s = true) : Effect s (onParserMessage m s)
  | mirrored (m : Message) (hm : msgOk m = true) (h : pollFree s = true) : Effect s (mirror m s)
  | routed (m : Message) (hm : msgOk m = true) (h : pollFree s = true) : Effect s (route m s)
  | dropped (m : Message) (hm : msgIsVoice m = true) (h : pollFree s = true) : Effect s (policyDrop m s)
  | forwarded (m : Message) (e : Fin nInt) (hm : msgIsVoice m = true) (h : pollFree s = true) : Effect s (forward m e s)
  | pulsed (h : pollFree s = true) : Effect s (pulse s)
  | popped (b : Byte) (u : State) (hp : ringPop s = some (b, u)) (h : pollFree s = true) :
      Effect s (respond (.popped (some b)) u)
  | pushed (b : Byte) (h : s.active = true) : Effect s (ringPush b s)
  | linkPopped (h : s.active = true) : Effect s (linkPop s)
  | polled (h : s.active = true) : Effect s (pollStep s)
  | served (c : Call) (h : pollFree s = true) : Effect s (beginCall c s)
  | queued (c : Call) (h : s.active = true) : Effect s { s with seq := { s.seq with calls := s.seq.calls ++ [c] } }
  | remapped (map : Vector Byte 16) (enable : Vector Bool nInt) :
      Effect s { s with chmap := { map := map, enable := enable } }
  | initialised (ok : Bool) (gap : Option Time) (h : s.active = false) (hf : s.initFail = false) :
      Effect s (initialise ok gap s)

theorem onPoll_effect {op : State → State} {s t : State} (h : onPoll op s = .next t)
    (e : pollFree s = true → Effect s (op s)) : Effect s t := by
  rcases onPoll_next h with ⟨hf, rfl⟩ | rfl
  · exact e hf
  · exact .stay

theorem makeCall_effect {c : Call} {s t : State} (h : makeCall c s = .next t) : Effect s t := by
  rcases makeCall_next h with rfl | ⟨hf, rfl⟩ | ⟨ha, rfl⟩
  · exact .stay
  · exact .served c hf
  · exact .queued c ha

theorem streamRow_effect {i : Instr} {b : Byte} (he : encode i = some (.stream, [b])) {s t : State}
    (h : exec i s = .next t) : Effect s t := by
  rw [exec_streamRow he] at h
  exact onPoll_effect h (.parsed b)

theorem packetRow_effect {i : Instr} (p : Packet) (he : encode i = some (.packet, [p.p0, p.p1, p.p2, p.p3])) {s t : State}
    (h : exec i s = .next t) : Effect s t := by
  rw [exec_packetRow he] at h
  exact onPoll_effect h (.hosted p)

theorem onMessage_effect {m : Message} {op : State → State} {s t : State} (h : onMessage m op s = .next t)
    (e : msgOk m = true → pollFree s = true → Effect s (op s)) : Effect s t := by
  rcases onMessage_next h with ⟨hm, hf, rfl⟩ | rfl
  · exact e hm hf
  · exact .stay

theorem onVoiceMessage_effect {m : Message} {op : State → State} {s t : State} (h : onVoiceMessage m op s = .next t)
    (e : msgIsVoice m = true → pollFree s = true → Effect s (op s)) : Effect s t := by
  rcases onVoiceMessage_next h with ⟨hm, hf, rfl⟩ | rfl
  · exact e hm hf
  · exact .stay

/-- Everything an instruction can do when it answers a next state. -/
theorem exec_effect {i : Instr} {s t : State} (h : exec i s = .next t) : Effect s t := by
  cases i
  case push b =>
    simp only [exec, execPush, receiveInterrupt, Host.Outcome.next.injEq] at h
    subst h
    split
    · exact .pushed b ‹_›
    · exact .stay
  case pop =>
    simp only [exec, execPop] at h
    refine onPoll_effect h (fun hf => ?_)
    split
    · exact .responded _ hf
    · exact .popped _ _ ‹_› hf
  case drain => exact makeCall_effect h
  case parse b => exact onPoll_effect h (.parsed b)
  case deliver m => exact onMessage_effect h (.delivered m)
  case mbxTake => exact makeCall_effect h
  case decode p =>
    simp only [exec, execDecode] at h
    refine onPoll_effect h (fun hf => ?_)
    unfold notePacket
    split
    · exact .decodedNull p _ hf
    · exact .responded _ hf
  case encode m =>
    simp only [exec, execEncode] at h
    split at h
    · simp at h
    · exact onMessage_effect h (fun _ hf => .responded _ hf)
  case onParserMessage m => exact onMessage_effect h (.listened m)
  case mirror m => exact onMessage_effect h (.mirrored m)
  case route m => exact onMessage_effect h (.routed m)
  case onHostMessage m => exact onMessage_effect h (.routed m)
  case policyDrop m => exact onVoiceMessage_effect h (.dropped m)
  case forward m e => exact onVoiceMessage_effect h (.forwarded m e)
  case pulse => exact onPoll_effect h .pulsed
  case mapReplace map enable =>
    simp only [exec, execMapReplace, Host.Outcome.next.injEq] at h
    subst h
    exact .remapped map enable
  case send b => exact makeCall_effect h
  case flush => exact makeCall_effect h
  case linkPop =>
    simp only [exec, execLinkPop, Host.Outcome.next.injEq] at h
    subst h
    split
    · exact .linkPopped ‹_›
    · exact .stay
  case poll =>
    simp only [exec, execPoll, Host.Outcome.next.injEq] at h
    subst h
    split
    · exact .polled ‹_›
    · exact .stay
  case init ok gap =>
    simp only [exec, execInit, Host.Outcome.next.injEq] at h
    subst h
    by_cases hs : (s.active || s.initFail) = true
    · have : initialise ok gap s = s := by simp only [initialise, hs, if_true]
      rw [this]
      exact .stay
    · simp only [Bool.or_eq_true, not_or, Bool.not_eq_true] at hs
      exact .initialised ok gap hs.1 hs.2
  case encChannelVoice m => exact onVoiceMessage_effect h (fun _ hf => .responded _ hf)
  case encRealTime r => exact onPoll_effect h (.responded _)
  case encSysF0 => exact onPoll_effect h (.responded _)
  case encSysF6 => exact onPoll_effect h (.responded _)
  case encSysF1 d => exact onPoll_effect h (.responded _)
  case encSysF3 d => exact onPoll_effect h (.responded _)
  case encSysF2 d1 d2 => exact onPoll_effect h (.responded _)
  case pktCin0 cn p1 p2 p3 => exact packetRow_effect ⟨_, _, _, _⟩ rfl h
  case pktCin1 cn p1 p2 p3 => exact packetRow_effect ⟨_, _, _, _⟩ rfl h
  case pktSys2 cn p1 p2 p3 => exact packetRow_effect ⟨_, _, _, _⟩ rfl h
  case pktSys3 cn p1 p2 p3 => exact packetRow_effect ⟨_, _, _, _⟩ rfl h
  case pktCin4 cn p1 p2 p3 => exact packetRow_effect ⟨_, _, _, _⟩ rfl h
  case pktSys1 cn p1 p2 p3 => exact packetRow_effect ⟨_, _, _, _⟩ rfl h
  case pktCin6 cn p1 p2 p3 => exact packetRow_effect ⟨_, _, _, _⟩ rfl h
  case pktCin7 cn p1 p2 p3 => exact packetRow_effect ⟨_, _, _, _⟩ rfl h
  case pktNoteOff cn p1 p2 p3 => exact packetRow_effect ⟨_, _, _, _⟩ rfl h
  case pktNoteOn cn p1 p2 p3 => exact packetRow_effect ⟨_, _, _, _⟩ rfl h
  case pktPolyPressure cn p1 p2 p3 => exact packetRow_effect ⟨_, _, _, _⟩ rfl h
  case pktControlChange cn p1 p2 p3 => exact packetRow_effect ⟨_, _, _, _⟩ rfl h
  case pktProgramChange cn p1 p2 p3 => exact packetRow_effect ⟨_, _, _, _⟩ rfl h
  case pktChannelPressure cn p1 p2 p3 => exact packetRow_effect ⟨_, _, _, _⟩ rfl h
  case pktPitchBend cn p1 p2 p3 => exact packetRow_effect ⟨_, _, _, _⟩ rfl h
  case pktSingleByte cn p1 p2 p3 => exact packetRow_effect ⟨_, _, _, _⟩ rfl h
  all_goals exact streamRow_effect rfl h

/-! ### Steps -/

/-- The decoded row of a stream byte encodes back to that byte. -/
theorem encode_decodeByte (ctx : DecodeCtx) (b : Byte) : encode (decodeByte ctx b) = some (.stream, [b]) := by
  obtain ⟨st, rv, ab⟩ := ctx
  cases st <;> cases rv <;> cases ab <;> revert b <;> decide

/-- The decoded row of a packet encodes back to that packet. -/
theorem encode_decodePacket (p : Packet) : encode (decodePacket p) = some (.packet, [p.p0, p.p1, p.p2, p.p3]) := by
  obtain ⟨p0, p1, p2, p3⟩ := p
  have h : ∀ b : Byte, joinNibbles (hiNibble b) (loNibble b) = b := join_nibbles
  have hc : ∀ b : Byte, ∃ n : Nat, n < 16 ∧ (loNibble b).toNat = n ∧ loNibble b = BitVec.ofNat 4 n :=
    fun b => ⟨(loNibble b).toNat, (loNibble b).isLt, rfl, by simp⟩
  obtain ⟨n, hn, hto, hof⟩ := hc p0
  have hj : joinNibbles (hiNibble p0) (BitVec.ofNat 4 n) = p0 := by rw [← hof]; exact h p0
  unfold decodePacket
  simp only [packetCin, packetCable, hto]
  clear h hc hto hof
  interval_cases n <;> simp only [encode, encodePacketRow, hj]

/-- `POP` takes the byte at `rb_rd` and advances `rb_rd`. -/
theorem ringPop_some {s u : State} {b : Byte} (h : ringPop s = some (b, u)) :
    ringEmpty s = false ∧ b = ringRead s s.ring.rd ∧
      u = { s with ring := { s.ring with rd := ringNext s s.ring.rd } } := by
  unfold ringPop at h
  split at h
  · simp at h
  · rename_i he
    simp only [Option.some.injEq, Prod.mk.injEq] at h
    exact ⟨by simpa using he, h.1.symm, h.2.symm⟩

theorem ringPop_none {s : State} : ringPop s = none ↔ ringEmpty s = true := by
  unfold ringPop
  split <;> simp_all

theorem pollStep_free {s : State} (h : pollFree s = true) : pollStep s = phaseStep s := by
  obtain ⟨-, ht, hc⟩ := pollFree_iff.1 h
  simp [pollStep, ht, hc]

/-- A turn of `A_POLL`, which fetches, decodes and executes, is one step of `POLL` (spec/45_poll_loop.md R240, R244). -/
theorem pollTurn_eq (s : State) : runFetched (fetchPoll s) = exec .poll s := by
  unfold fetchPoll
  split
  · rename_i hf
    have ha := (pollFree_iff.1 hf).1
    have he : exec .poll s = .next (phaseStep s) := by simp [exec, execPoll, ha, pollStep_free hf]
    split
    · rename_i hph
      split
      · rename_i b u hp
        have hp' := ringPop_some hp
        have hu : pollFree u = true := by rw [hp'.2.2]; exact hf
        simp only [runFetched]
        rw [exec_streamRow (encode_decodeByte _ b), onPoll_free hu, he]
        simp [phaseStep, hph, hp'.1, ringStep, hp]
      · rfl
    · rename_i hph
      split
      · rename_i p rest hp
        simp only [runFetched]
        rw [exec_packetRow (encode_decodePacket p), onPoll_free (by exact hf), he]
        simp [phaseStep, hph, hp]
      · rfl
  · rfl

/-- A state the environment may turn `s` into between two instructions: only `env` differs. -/
inductive EnvEffect (s : State) : State → Prop
  | sched (ts : List Turn) : EnvEffect s (setSched ts s)
  | serial (bs : List Byte) : EnvEffect s { s with env := { s.env with serialIn := bs } }
  | hostIn (ps : List Packet) : EnvEffect s { s with env := { s.env with hostIn := ps } }
  | ready (v : Bool) : EnvEffect s (setHostReady v s)
  | transport (v : Bool) : EnvEffect s (setTransportOk v s)
  | failed (which : Transport) : EnvEffect s (setTransportFailed which s)
  | time (d : Time) (h : advanceFits d s = true) : EnvEffect s { s with env := { s.env with now := s.env.now + d } }

/-- An invariant that every instruction and every turn of the environment keeps is kept by every step. -/
theorem step_keeps (P : State → Prop) (hx : ∀ s t, Effect s t → P s → P t) (he : ∀ s t, EnvEffect s t → P s → P t)
    {s t : State} (h : step s = .next t) (hp : P s) : P t := by
  have hexec : ∀ {i : Instr} {u v : State}, exec i u = .next v → P u → P v := fun h => hx _ _ (exec_effect h)
  have hturn : ∀ {k : Turn} {u v : State}, takeTurn k u = .next v → P u → P v := by
    intro k u v h hu
    cases k with
    | poll => exact hexec ((pollTurn_eq u).symm.trans h) hu
    | rx =>
      simp only [takeTurn, fetchSerial] at h
      split at h
      · rename_i f hf
        split at hf
        · simp at hf
        · simp only [Option.some.injEq] at hf
          subst hf
          exact hexec h (he _ _ (.serial _) hu)
      · simp only [Host.Outcome.next.injEq] at h
        exact h ▸ hu
    | run i => exact hexec h hu
    | init gap => exact hexec (i := .init u.env.transportOk gap) h hu
    | advance d =>
      simp only [takeTurn, advanceTime] at h
      split at h
      · simp only [Host.Outcome.next.injEq] at h
        exact h ▸ he _ _ (.time d ‹_›) hu
      · simp at h
    | hostArrive p =>
      simp only [takeTurn, Host.Outcome.next.injEq] at h
      exact h ▸ he _ _ (.hostIn _) hu
    | hostReady v =>
      simp only [takeTurn, Host.Outcome.next.injEq] at h
      exact h ▸ he _ _ (.ready v) hu
    | serialArrive b =>
      simp only [takeTurn, Host.Outcome.next.injEq] at h
      exact h ▸ he _ _ (.serial _) hu
    | transportOk v =>
      simp only [takeTurn, Host.Outcome.next.injEq] at h
      exact h ▸ he _ _ (.transport v) hu
    | transportFailed which =>
      simp only [takeTurn, Host.Outcome.next.injEq] at h
      exact h ▸ he _ _ (.failed which) hu
  unfold step at h
  split at h
  · exact hturn h hp
  · exact hturn h (he _ _ (.sched _) hp)

end Sys2Proof.Machine
end

