-- ==== Sys2Proof/Laws/Memory.lean ====
section
/-! SUPPORT. The laws of the byte storage: a read after a write, the other cells, and the canonical form. -/

namespace Sys2Proof.Machine

open Sys2Proof

theorem Memory.read_of_lt {m : Memory} {a : Nat} (h : ∀ c ∈ m, a < c.1) : m.read a = ringBlank := by
  induction m with
  | nil => rfl
  | cons c rest ih =>
    have hc := h c (by simp)
    simp only [Memory.read]
    rw [if_neg (by omega)]
    exact ih (fun d hd => h d (by simp [hd]))

/-- Every listed index of the storage after a write was listed or is the one written. -/
theorem Memory.mem_write {m : Memory} {a : Nat} {v : Byte} {c : Host.Cell} (h : c ∈ m.write a v) :
    c ∈ m ∨ (c = (a, v) ∧ v ≠ ringBlank) := by
  induction m with
  | nil =>
    simp only [Memory.write] at h
    split at h <;> simp_all
  | cons d rest ih =>
    simp only [Memory.write] at h
    split at h
    · split at h
      · exact .inl h
      · rcases List.mem_cons.1 h with h | h
        · exact .inr ⟨h, by assumption⟩
        · exact .inl h
    · split at h
      · split at h
        · exact .inl (List.mem_cons_of_mem _ h)
        · rcases List.mem_cons.1 h with h | h
          · exact .inr ⟨h, by assumption⟩
          · exact .inl (List.mem_cons_of_mem _ h)
      · rcases List.mem_cons.1 h with h | h
        · exact .inl (h ▸ List.mem_cons_self ..)
        · rcases ih h with h | h
          · exact .inl (List.mem_cons_of_mem _ h)
          · exact .inr h

/-- A write keeps the canonical form. -/
theorem Memory.wf_write {m : Memory} {a : Nat} {v : Byte} (h : m.wf) : (m.write a v).wf := by
  obtain ⟨hs, hb⟩ := h
  refine ⟨?_, fun c hc => ?_⟩
  · induction m with
    | nil =>
      simp only [Memory.write]
      split <;> simp
    | cons d rest ih =>
      rw [List.pairwise_cons] at hs
      simp only [Memory.write]
      split
      · split
        · exact List.pairwise_cons.2 hs
        · refine List.pairwise_cons.2 ⟨fun c hc => ?_, List.pairwise_cons.2 hs⟩
          rcases List.mem_cons.1 hc with rfl | hc
          · assumption
          · have := hs.1 c hc
            show a < c.1
            omega
      · split
        · rename_i hn he
          split
          · exact hs.2
          · refine List.pairwise_cons.2 ⟨fun c hc => ?_, hs.2⟩
            have := hs.1 c hc
            show a < c.1
            omega
        · refine List.pairwise_cons.2 ⟨fun c hc => ?_, ih hs.2 (fun c hc => hb c (List.mem_cons_of_mem _ hc))⟩
          rcases Memory.mem_write hc with hc | ⟨rfl, -⟩
          · exact hs.1 c hc
          · show d.1 < a
            omega
  · rcases Memory.mem_write hc with hc | ⟨rfl, hv⟩
    · exact hb c hc
    · exact hv

/-- Reading after a write, in a storage in canonical form. -/
theorem Memory.read_write {m : Memory} (h : m.wf) (a : Nat) (v : Byte) (x : Nat) :
    (m.write a v).read x = if x = a then v else m.read x := by
  obtain ⟨hs, -⟩ := h
  induction m with
  | nil =>
    simp only [Memory.write]
    split
    · rename_i hv
      simp only [Memory.read]
      split <;> simp_all
    · simp only [Memory.read]
      by_cases hx : x = a
      · simp [hx]
      · simp [hx, Ne.symm hx]
  | cons d rest ih =>
    rw [List.pairwise_cons] at hs
    simp only [Memory.write]
    split
    · rename_i ha
      split
      · rename_i hv
        by_cases hx : x = a
        · subst hx
          rw [if_pos rfl, hv]
          refine Memory.read_of_lt (fun c hc => ?_)
          rcases List.mem_cons.1 hc with rfl | hc
          · exact ha
          · have := hs.1 c hc
            omega
        · rw [if_neg hx]
      · by_cases hx : x = a
        · simp [Memory.read, hx]
        · simp [Memory.read, hx, Ne.symm hx]
    · split
      · rename_i hn he
        split
        · rename_i hv
          by_cases hx : x = a
          · subst hx
            rw [if_pos rfl, hv]
            exact Memory.read_of_lt (fun c hc => by have := hs.1 c hc; omega)
          · simp only [Memory.read]
            rw [if_neg hx, if_neg (by omega)]
        · by_cases hx : x = a
          · simp [Memory.read, hx]
          · simp only [Memory.read]
            rw [if_neg (Ne.symm hx), if_neg hx, if_neg (by omega)]
      · simp only [Memory.read]
        rw [ih hs.2]
        by_cases hx : x = a
        · subst hx
          simp [show d.1 ≠ x by omega]
        · simp only [if_neg hx]

/-- A write keeps every listed index below a bound that the written index meets. -/
theorem Memory.inRange_write {m : Memory} {a n : Nat} {v : Byte} (h : ∀ c ∈ m, c.1 < n) (ha : a < n) :
    ∀ c ∈ m.write a v, c.1 < n := by
  intro c hc
  rcases Memory.mem_write hc with hc | ⟨rfl, -⟩
  · exact h c hc
  · exact ha

/-- Reset memory lists nothing, so it is in canonical form. -/
theorem State.resetWith_mem_wf (c : Config) : (State.resetWith c).ring.mem.wf := by
  simp [State.resetWith, Memory.wf]

end Sys2Proof.Machine
end

