-- ==== Sys2Proof/Laws/ParserInv.lean ====
section
/-! SUPPORT. `PARSE` keeps the parser's invariant, the mailbox holding a Message, and `tx_pend` at three bytes at most
(spec/10_state.md R51), rule by rule. -/

namespace Sys2Proof.Machine

open Sys2Proof

/-! ### The parser after each status rule -/

theorem abandon_parser (s : State) : (abandon s).parser = s.parser := (abandon_frame s).parser

theorem cvStatus_parser (b : Byte) (s : State) :
    (cvStatus b s).parser =
      { s.parser with rsValid := true, rsStatus := b, accRaw := s.parser.accRaw.set 0 b, accLen := 1, accNeed := needOf b, st := .collectingData1 } := by
  unfold cvStatus
  simp only [abandon_parser]

theorem sysLoad_parser (b : Byte) (n : Nat) (s : State) :
    (sysLoad b n s).parser =
      { s.parser with rsValid := false, accRaw := s.parser.accRaw.set 0 b, accLen := 1, accNeed := n, st := .collectingData1 } := by
  unfold sysLoad sysCommon
  simp only [abandon_parser]

theorem sysEmpty_parser (st : ParserState) (s : State) :
    (sysEmpty st s).parser = { s.parser with rsValid := false, accLen := 0, accNeed := 0, st := st } := by
  unfold sysEmpty sysCommon
  simp only [abandon_parser]

theorem sysUndefined_parser (b : Byte) (s : State) :
    (sysUndefined b s).parser = { s.parser with rsValid := false, accLen := 0, accNeed := 0, st := .idle } := by
  unfold sysUndefined
  rw [raise_parser, sysEmpty_parser]

theorem sysTune_parser (s : State) :
    (sysTune s).parser = { s.parser with rsValid := false, accLen := 0, accNeed := 0, st := .idle } := by
  unfold sysTune
  rw [deliver_parser, sysEmpty_parser]

/-! ### The invariant, rule by rule -/

theorem parserInv_empty (p : Parser) :
    ParserInv { p with rsValid := false, accLen := 0, accNeed := 0, st := .idle } :=
  ⟨by simp, by simp, by simp, by simp, by simp, by simp, by simp⟩

theorem nd_voice {b : Byte} (h : isChannelVoice b = true) : nd b = some (needOf b) ∧ needOf b ≠ 0 := by
  revert b; decide

theorem parserInv_cv {b : Byte} (h : isChannelVoice b = true) (p : Parser) :
    ParserInv { p with rsValid := true, rsStatus := b, accRaw := p.accRaw.set 0 b, accLen := 1, accNeed := needOf b, st := .collectingData1 } := by
  have hb : 0x80#8 ≤ b ∧ b ≤ 0xEF#8 := by simpa [isChannelVoice] using h
  refine ⟨by simp, fun _ => ?_, by simp, by simp, ?_, ?_, ?_⟩
  · simp [nd_voice h, hb]
  · simp
  · intro _ h2
    simp at h2
    exact absurd (BitVec.le_trans h2 hb.2) (by decide)
  · simpa using hb


theorem vec3_toList (v : Vector Byte 3) : v.toList = [v[0], v[1], v[2]] := by
  obtain ⟨⟨l⟩, h⟩ := v
  match l, h with
  | [a, b, c], _ => rfl

theorem completed_two {p : Parser} (h : p.accLen = 2) : completed p = { raw := [p.accRaw[0], p.accRaw[1]] } := by
  simp [completed, h, vec3_toList, normalise]

theorem completed_three {p : Parser} (h : p.accLen = 3) :
    completed p = { raw := normalise [p.accRaw[0], p.accRaw[1], p.accRaw[2]] } := by
  simp [completed, h, vec3_toList]

theorem normalise_ok {s d1 d2 : Byte} (h0 : nd s = some 2) (h1 : d1 < 0x80#8) (h2 : d2 < 0x80#8) :
    msgOk { raw := normalise [s, d1, d2] } = true := by
  have h8 : lenOf (joinNibbles 0x8#4 (loNibble s)) = some 3 := by
    clear h0 h1 h2
    revert s; decide
  by_cases h : hiNibble s = 0x9#4 ∧ d2 = 0#8
  · simp only [normalise, h, and_self, if_true]
    simp [msgOk, h8, h1]
  · simp only [normalise, h, if_false]
    simp [msgOk, lenOf, h0, h1, h2]

theorem byte_lt_of_not_status {b : Byte} (h : isStatus b = false) : b < 0x80#8 := by
  revert b; decide

theorem realTime_ok {b : Byte} (h : isRealTime b = true) : msgOk { raw := [b] } = true := by
  revert b; decide

/-- What `PARSE` keeps. -/
structure ParseInv (s : State) : Prop where
  parser : ParserInv s.parser
  mailbox : s.mbx.full = true → msgOk s.mbx.msg = true
  txPend : s.seq.txPend.length ≤ 3

theorem deliver_inv {m : Message} (hm : msgOk m = true) {s : State} (h : ParserInv s.parser) (ht : s.seq.txPend.length ≤ 3) :
    ParseInv (deliver m s) :=
  ⟨by rw [deliver_parser]; exact h, by rw [deliver_mbx]; exact fun _ => hm, deliver_txPend_le hm ht⟩

theorem complete_inv {s : State} (hm : msgOk (completed s.parser) = true)
    (h : ParserInv { s.parser with accLen := 0, accNeed := 0, st := .idle }) (ht : s.seq.txPend.length ≤ 3) :
    ParseInv (complete s) := deliver_inv hm h ht

theorem parserInv_done {p : Parser} (h : p.rsValid = true → 0x80#8 ≤ p.rsStatus ∧ p.rsStatus ≤ 0xEF#8) :
    ParserInv { p with accLen := 0, accNeed := 0, st := .idle } :=
  ⟨by simp, by simp, by simp, by simp, by simp, by simp, h⟩

theorem dataFirst_inv {b : Byte} (hb : b < 0x80#8) {s : State} (h : ParseInv s) (hc : s.parser.st = .collectingData1) :
    ParseInv (dataFirst b s) := by
  obtain ⟨hl, hr, hn⟩ := h.parser.collecting1 hc
  unfold dataFirst
  dsimp only
  split
  · rename_i hz
    refine complete_inv ?_ (parserInv_done h.parser.running) h.txPend
    have h1 : nd s.parser.accRaw[0] = some 1 := by
      have : nd s.parser.accRaw[0] ≠ some 0 := by
        rcases hr with ⟨h1, h2⟩ | h1 | h1 | h1
        · have hv : isChannelVoice s.parser.accRaw[0] = true := by simp [isChannelVoice, h1, h2]
          rw [(nd_voice hv).1]; simpa using (nd_voice hv).2
        · rw [h1]; decide
        · rw [h1]; decide
        · rw [h1]; decide
      rw [hn] at this ⊢
      simp at this ⊢
      omega
    rw [completed_two rfl]
    simp [msgOk, lenOf, h1, hb]
  · rename_i hz
    have h2 : s.parser.accNeed = 2 := by
      have : ∀ b : Byte, ∀ n ∈ nd b, n ≤ 2 := by decide
      have := this _ _ hn
      omega
    refine ⟨⟨by simp, by simp, fun _ => ?_, by simp, ?_, ?_, h.parser.running⟩, h.mailbox, h.txPend⟩
    · simp [hn, h2, hb]
    · intro _ hx
      simpa using h.parser.voice (by omega) (by simpa using hx)
    · intro _ hx
      exact h.parser.system (by omega) (by simpa using hx)

theorem dataSecond_inv {b : Byte} (hb : b < 0x80#8) {s : State} (h : ParseInv s) (hc : s.parser.st = .collectingData2) :
    ParseInv (dataSecond b s) := by
  obtain ⟨hl, hr, hn, hd⟩ := h.parser.collecting2 hc
  unfold dataSecond
  refine complete_inv ?_ (parserInv_done h.parser.running) h.txPend
  rw [completed_three rfl]
  exact normalise_ok (by simpa using hr) (by simpa using hd) (by simpa using hb)

theorem parserInv_resume {p : Parser} (h : ParserInv p) (hv : p.rsValid = true) :
    ParserInv { p with accRaw := p.accRaw.set 0 p.rsStatus, accLen := 1, accNeed := needOf p.rsStatus, st := .collectingData1 } := by
  have hb := h.running hv
  have := parserInv_cv (b := p.rsStatus) (by simp [isChannelVoice, hb]) p
  rw [← hv] at this
  exact this

theorem dataResume_inv {b : Byte} (hb : b < 0x80#8) {s : State} (h : ParseInv s) (hv : s.parser.rsValid = true) :
    ParseInv (dataResume b s) :=
  dataFirst_inv hb ⟨parserInv_resume h.parser hv, h.mailbox, h.txPend⟩ rfl

theorem raise_inv (e : Event) {s : State} (h : ParseInv s) : ParseInv (raise e s) := ⟨h.1, h.2, h.3⟩

theorem parseData_inv {b : Byte} (hb : b < 0x80#8) {s : State} (h : ParseInv s) : ParseInv (parseData b s) := by
  unfold parseData
  split
  · exact dataFirst_inv hb h ‹_›
  · exact dataSecond_inv hb h ‹_›
  · exact raise_inv _ h
  · split
    · exact dataResume_inv hb h ‹_›
    · exact raise_inv _ h


theorem parserInv_leave {p : Parser} (h : ParserInv p) (hi : p.st = .ignoringSystemBlock) : ParserInv { p with st := .idle } := by
  obtain ⟨h1, h2, h3⟩ := h.ignoring hi
  exact ⟨fun _ => ⟨h1, h2⟩, by simp, by simp, by simp, h.voice, h.system, h.running⟩

theorem parserInv_block (p : Parser) :
    ParserInv { p with rsValid := false, accLen := 0, accNeed := 0, st := .ignoringSystemBlock } :=
  ⟨by simp, by simp, by simp, by simp, by simp, by simp, by simp⟩

theorem parserInv_load {b : Byte} {n : Nat} (hb : b = 0xF1#8 ∨ b = 0xF2#8 ∨ b = 0xF3#8) (hn : nd b = some n) (p : Parser) :
    ParserInv { p with rsValid := false, accRaw := p.accRaw.set 0 b, accLen := 1, accNeed := n, st := .collectingData1 } := by
  refine ⟨by simp, fun _ => ?_, by simp, by simp, ?_, by simp, by simp⟩
  · simp only [Vector.getElem_set_self, hn, and_true, true_and]
    exact .inr hb
  · intro _ hx
    simp only [Vector.getElem_set_self] at hx
    rcases hb with rfl | rfl | rfl <;> exact absurd hx (by decide)

theorem abandon_mbx (s : State) : (abandon s).mbx = s.mbx := (abandon_frame s).mbx
theorem abandon_seq (s : State) : (abandon s).seq = s.seq := by unfold abandon; split <;> rfl

theorem parseStatus_inv {b : Byte} {s : State} (h : ParseInv s) : ParseInv (parseStatus b s) := by
  have hm : ∀ t : State, t.mbx = s.mbx → t.seq = s.seq → ParserInv t.parser → ParseInv t :=
    fun t h1 h2 h3 => ⟨h3, by rw [h1]; exact h.mailbox, by rw [h2]; exact h.txPend⟩
  have hc1 : ∀ st, (sysEmpty st s).mbx = s.mbx := fun st => abandon_mbx s
  have hc2 : ∀ st, (sysEmpty st s).seq = s.seq := fun st => abandon_seq s
  have hu : ∀ b, ParseInv (sysUndefined b s) := fun b =>
    hm (sysUndefined b s) (hc1 .idle) (hc2 .idle) (by rw [sysUndefined_parser]; exact parserInv_empty _)
  unfold parseStatus
  split
  · exact hm _ (abandon_mbx s) (abandon_seq s) (by rw [cvStatus_parser]; exact parserInv_cv ‹_› _)
  · unfold sysStatus
    split
    · exact hm _ (hc1 _) (hc2 _) (by rw [sysEmpty_parser]; exact parserInv_block _)
    · exact hm _ (abandon_mbx s) (abandon_seq s) (by rw [sysLoad_parser]; exact parserInv_load (by decide) (by decide) _)
    · exact hm _ (abandon_mbx s) (abandon_seq s) (by rw [sysLoad_parser]; exact parserInv_load (by decide) (by decide) _)
    · exact hm _ (abandon_mbx s) (abandon_seq s) (by rw [sysLoad_parser]; exact parserInv_load (by decide) (by decide) _)
    · exact hu _
    · exact hu _
    · exact deliver_inv (by decide) (by rw [sysEmpty_parser]; exact parserInv_empty _) (by rw [hc2]; exact h.txPend)
    · exact hu _

theorem parse_inv {b : Byte} {s : State} (h : ParseInv s) : ParseInv (parse b s) := by
  unfold parse
  split
  · exact deliver_inv (realTime_ok ‹_›) h.parser h.txPend
  · split
    · rename_i hi
      have hl : ParseInv (leaveBlock s) := ⟨parserInv_leave h.parser hi, h.mailbox, h.txPend⟩
      unfold inBlock
      split
      · exact hl
      · split
        · exact parseStatus_inv hl
        · exact raise_inv _ h
    · split
      · exact parseStatus_inv h
      · exact parseData_inv (byte_lt_of_not_status (by simpa using ‹¬ isStatus b = true›)) h

end Sys2Proof.Machine
end

