-- ==== Sys2Proof/Laws/PerInstr.lean ====
section
/-! SUPPORT. Decoding undoes encoding, instruction by instruction: a row's bytes, decoded in a context in which the row is
the one selected, give the row with its operands back. -/

namespace Sys2Proof.Laws.DecodeEncode

open Sys2Proof Sys2Proof.Machine

/-- The law for one instruction; true at once for the operations without a bit encoding. -/
def Statement (i : Instr) : Prop :=
  ∀ (ctx : DecodeCtx) (f : Format) (bytes : List Byte), i.wf = true → rowSelected ctx i = true →
    encode i = some (f, bytes) → decodeFormat ctx f bytes = .ok (i, [])

/-- A row of the byte stream. -/
theorem ofStream {i : Instr} {b : Byte} (he : encode i = some (.stream, [b]))
    (h : ∀ ctx : DecodeCtx, i.wf = true → rowSelected ctx i = true → decodeByte ctx b = i) : Statement i := by
  intro ctx f bytes hw hs hb
  rw [he] at hb
  simp only [Option.some.injEq, Prod.mk.injEq] at hb
  obtain ⟨rfl, rfl⟩ := hb
  simp only [decodeFormat, h ctx hw hs]

/-- A packet row. -/
theorem ofPacket {i : Instr} {p0 p1 p2 p3 : Byte} (he : encode i = some (.packet, [p0, p1, p2, p3]))
    (h : decodePacket { p0, p1, p2, p3 } = i) : Statement i := by
  intro ctx f bytes _ _ hb
  rw [he] at hb
  simp only [Option.some.injEq, Prod.mk.injEq] at hb
  obtain ⟨rfl, rfl⟩ := hb
  simp only [decodeFormat, h]

/-- An encoder row. -/
theorem ofMessage {i : Instr} {bytes : List Byte} (he : encode i = some (.encoder, bytes))
    (h : i.wf = true → decodeMessage { raw := bytes } = .ok i) : Statement i := by
  intro ctx f bs hw _ hb
  rw [he] at hb
  simp only [Option.some.injEq, Prod.mk.injEq] at hb
  obtain ⟨rfl, rfl⟩ := hb
  simp only [decodeFormat, h hw]

/-- An operation without a bit encoding (spec/30_encoding.md R97). -/
theorem ofNone {i : Instr} (he : encode i = none) : Statement i := by
  intro ctx f bytes _ _ hb
  rw [he] at hb
  simp at hb

theorem decodePacket_join (cin cn : Nibble) (p1 p2 p3 : Byte) :
    packetCin { p0 := joinNibbles cn cin, p1, p2, p3 } = cin ∧ packetCable { p0 := joinNibbles cn cin, p1, p2, p3 } = cn :=
  ⟨loNibble_join cn cin, hiNibble_join cn cin⟩

theorem encChannelVoice_decode {m : Message} (h : msgIsVoice m = true) : decodeMessage m = .ok (.encChannelVoice m) := by
  obtain ⟨raw⟩ := m
  simp only [msgIsVoice, Bool.and_eq_true] at h
  obtain ⟨hm, hv⟩ := h
  match raw, hm, hv with
  | s :: ds, hm, hv =>
    have hk : kindOf s ≠ none := by
      have : ∀ b : Byte, isChannelVoice b = true → kindOf b ≠ none := by decide
      exact this s hv
    have hv' : isChannelVoice s = true := hv
    simp only [decodeMessage, hk, hm, hv', if_true, if_false, Bool.not_true, Bool.false_eq_true]

theorem dataByte_lt (v : Data7) : dataByte v < 0x80#8 := by revert v; decide

theorem dataValue_dataByte (v : Data7) : dataValue (dataByte v) = v := by revert v; decide

theorem encSysF2_decode (d1 d2 : Data7) :
    decodeMessage { raw := [0xF2#8, dataByte d1, dataByte d2] } = .ok (.encSysF2 d1 d2) := by
  have h1 : kindOf 0xF2#8 ≠ none := by decide
  have h2 : isChannelVoice 0xF2#8 = false := by decide
  have h3 : isRealTime 0xF2#8 = false := by decide
  have h4 : msgOk { raw := [0xF2#8, dataByte d1, dataByte d2] } = true := by
    have : lenOf 0xF2#8 = some 3 := by decide
    simp [msgOk, this, dataByte_lt]
  simp [decodeMessage, h1, h2, h3, h4, dataValue_dataByte]

theorem noteOffStatus (ch : Nibble) : Statement (.noteOffStatus ch) :=
  ofStream rfl (fun ⟨st, rv, ab⟩ => by cases st <;> cases rv <;> cases ab <;> revert ch <;> decide)

theorem noteOnStatus (ch : Nibble) : Statement (.noteOnStatus ch) :=
  ofStream rfl (fun ⟨st, rv, ab⟩ => by cases st <;> cases rv <;> cases ab <;> revert ch <;> decide)

theorem polyPressureStatus (ch : Nibble) : Statement (.polyPressureStatus ch) :=
  ofStream rfl (fun ⟨st, rv, ab⟩ => by cases st <;> cases rv <;> cases ab <;> revert ch <;> decide)

theorem controlChangeStatus (ch : Nibble) : Statement (.controlChangeStatus ch) :=
  ofStream rfl (fun ⟨st, rv, ab⟩ => by cases st <;> cases rv <;> cases ab <;> revert ch <;> decide)

theorem programChangeStatus (ch : Nibble) : Statement (.programChangeStatus ch) :=
  ofStream rfl (fun ⟨st, rv, ab⟩ => by cases st <;> cases rv <;> cases ab <;> revert ch <;> decide)

theorem channelPressureStatus (ch : Nibble) : Statement (.channelPressureStatus ch) :=
  ofStream rfl (fun ⟨st, rv, ab⟩ => by cases st <;> cases rv <;> cases ab <;> revert ch <;> decide)

theorem pitchBendStatus (ch : Nibble) : Statement (.pitchBendStatus ch) :=
  ofStream rfl (fun ⟨st, rv, ab⟩ => by cases st <;> cases rv <;> cases ab <;> revert ch <;> decide)

theorem sysexStart : Statement .sysexStart :=
  ofStream rfl (fun ⟨st, rv, ab⟩ => by cases st <;> cases rv <;> cases ab <;> decide)

theorem sysF1 : Statement .sysF1 :=
  ofStream rfl (fun ⟨st, rv, ab⟩ => by cases st <;> cases rv <;> cases ab <;> decide)

theorem sysF2 : Statement .sysF2 :=
  ofStream rfl (fun ⟨st, rv, ab⟩ => by cases st <;> cases rv <;> cases ab <;> decide)

theorem sysF3 : Statement .sysF3 :=
  ofStream rfl (fun ⟨st, rv, ab⟩ => by cases st <;> cases rv <;> cases ab <;> decide)

theorem undefF4 : Statement .undefF4 :=
  ofStream rfl (fun ⟨st, rv, ab⟩ => by cases st <;> cases rv <;> cases ab <;> decide)

theorem undefF5 : Statement .undefF5 :=
  ofStream rfl (fun ⟨st, rv, ab⟩ => by cases st <;> cases rv <;> cases ab <;> decide)

theorem tuneRequest : Statement .tuneRequest :=
  ofStream rfl (fun ⟨st, rv, ab⟩ => by cases st <;> cases rv <;> cases ab <;> decide)

theorem strayF7 : Statement .strayF7 :=
  ofStream rfl (fun ⟨st, rv, ab⟩ => by cases st <;> cases rv <;> cases ab <;> decide)

theorem sysexEnd : Statement .sysexEnd :=
  ofStream rfl (fun ⟨st, rv, ab⟩ => by cases st <;> cases rv <;> cases ab <;> decide)

theorem inBlockStatus (low : Data7) : Statement (.inBlockStatus low) :=
  ofStream rfl (fun ⟨st, rv, ab⟩ => by cases st <;> cases rv <;> cases ab <;> revert low <;> decide)

theorem rtF8 : Statement .rtF8 :=
  ofStream rfl (fun ⟨st, rv, ab⟩ => by cases st <;> cases rv <;> cases ab <;> decide)

theorem rtF9 : Statement .rtF9 :=
  ofStream rfl (fun ⟨st, rv, ab⟩ => by cases st <;> cases rv <;> cases ab <;> decide)

theorem rtFA : Statement .rtFA :=
  ofStream rfl (fun ⟨st, rv, ab⟩ => by cases st <;> cases rv <;> cases ab <;> decide)

theorem rtFB : Statement .rtFB :=
  ofStream rfl (fun ⟨st, rv, ab⟩ => by cases st <;> cases rv <;> cases ab <;> decide)

theorem rtFC : Statement .rtFC :=
  ofStream rfl (fun ⟨st, rv, ab⟩ => by cases st <;> cases rv <;> cases ab <;> decide)

theorem rtFD : Statement .rtFD :=
  ofStream rfl (fun ⟨st, rv, ab⟩ => by cases st <;> cases rv <;> cases ab <;> decide)

theorem rtFE : Statement .rtFE :=
  ofStream rfl (fun ⟨st, rv, ab⟩ => by cases st <;> cases rv <;> cases ab <;> decide)

theorem rtFF : Statement .rtFF :=
  ofStream rfl (fun ⟨st, rv, ab⟩ => by cases st <;> cases rv <;> cases ab <;> decide)

theorem dataResume (v : Data7) : Statement (.dataResume v) :=
  ofStream rfl (fun ⟨st, rv, ab⟩ => by cases st <;> cases rv <;> cases ab <;> revert v <;> decide)

theorem dataFirst (v : Data7) : Statement (.dataFirst v) :=
  ofStream rfl (fun ⟨st, rv, ab⟩ => by cases st <;> cases rv <;> cases ab <;> revert v <;> decide)

theorem dataSecond (v : Data7) : Statement (.dataSecond v) :=
  ofStream rfl (fun ⟨st, rv, ab⟩ => by cases st <;> cases rv <;> cases ab <;> revert v <;> decide)

theorem dataStray (v : Data7) : Statement (.dataStray v) :=
  ofStream rfl (fun ⟨st, rv, ab⟩ => by cases st <;> cases rv <;> cases ab <;> revert v <;> decide)

theorem dataInBlock (v : Data7) : Statement (.dataInBlock v) :=
  ofStream rfl (fun ⟨st, rv, ab⟩ => by cases st <;> cases rv <;> cases ab <;> revert v <;> decide)

theorem pktCin0 (cn : Nibble) (p1 p2 p3 : Byte) : Statement (.pktCin0 cn p1 p2 p3) :=
  ofPacket rfl (by simp [decodePacket, decodePacket_join])

theorem pktCin1 (cn : Nibble) (p1 p2 p3 : Byte) : Statement (.pktCin1 cn p1 p2 p3) :=
  ofPacket rfl (by simp [decodePacket, decodePacket_join])

theorem pktSys2 (cn : Nibble) (p1 p2 p3 : Byte) : Statement (.pktSys2 cn p1 p2 p3) :=
  ofPacket rfl (by simp [decodePacket, decodePacket_join])

theorem pktSys3 (cn : Nibble) (p1 p2 p3 : Byte) : Statement (.pktSys3 cn p1 p2 p3) :=
  ofPacket rfl (by simp [decodePacket, decodePacket_join])

theorem pktCin4 (cn : Nibble) (p1 p2 p3 : Byte) : Statement (.pktCin4 cn p1 p2 p3) :=
  ofPacket rfl (by simp [decodePacket, decodePacket_join])

theorem pktSys1 (cn : Nibble) (p1 p2 p3 : Byte) : Statement (.pktSys1 cn p1 p2 p3) :=
  ofPacket rfl (by simp [decodePacket, decodePacket_join])

theorem pktCin6 (cn : Nibble) (p1 p2 p3 : Byte) : Statement (.pktCin6 cn p1 p2 p3) :=
  ofPacket rfl (by simp [decodePacket, decodePacket_join])

theorem pktCin7 (cn : Nibble) (p1 p2 p3 : Byte) : Statement (.pktCin7 cn p1 p2 p3) :=
  ofPacket rfl (by simp [decodePacket, decodePacket_join])

theorem pktNoteOff (cn : Nibble) (p1 p2 p3 : Byte) : Statement (.pktNoteOff cn p1 p2 p3) :=
  ofPacket rfl (by simp [decodePacket, decodePacket_join])

theorem pktNoteOn (cn : Nibble) (p1 p2 p3 : Byte) : Statement (.pktNoteOn cn p1 p2 p3) :=
  ofPacket rfl (by simp [decodePacket, decodePacket_join])

theorem pktPolyPressure (cn : Nibble) (p1 p2 p3 : Byte) : Statement (.pktPolyPressure cn p1 p2 p3) :=
  ofPacket rfl (by simp [decodePacket, decodePacket_join])

theorem pktControlChange (cn : Nibble) (p1 p2 p3 : Byte) : Statement (.pktControlChange cn p1 p2 p3) :=
  ofPacket rfl (by simp [decodePacket, decodePacket_join])

theorem pktProgramChange (cn : Nibble) (p1 p2 p3 : Byte) : Statement (.pktProgramChange cn p1 p2 p3) :=
  ofPacket rfl (by simp [decodePacket, decodePacket_join])

theorem pktChannelPressure (cn : Nibble) (p1 p2 p3 : Byte) : Statement (.pktChannelPressure cn p1 p2 p3) :=
  ofPacket rfl (by simp [decodePacket, decodePacket_join])

theorem pktPitchBend (cn : Nibble) (p1 p2 p3 : Byte) : Statement (.pktPitchBend cn p1 p2 p3) :=
  ofPacket rfl (by simp [decodePacket, decodePacket_join])

theorem pktSingleByte (cn : Nibble) (p1 p2 p3 : Byte) : Statement (.pktSingleByte cn p1 p2 p3) :=
  ofPacket rfl (by simp [decodePacket, decodePacket_join])

theorem encChannelVoice (m : Message) : Statement (.encChannelVoice m) := ofMessage rfl encChannelVoice_decode

theorem encRealTime (r : BitVec 3) : Statement (.encRealTime r) := ofMessage rfl (fun _ => by revert r; decide)

theorem encSysF0 : Statement .encSysF0 := ofMessage rfl (fun _ => by decide)

theorem encSysF6 : Statement .encSysF6 := ofMessage rfl (fun _ => by decide)

theorem encSysF1 (d : Data7) : Statement (.encSysF1 d) := ofMessage rfl (fun _ => by revert d; decide)

theorem encSysF3 (d : Data7) : Statement (.encSysF3 d) := ofMessage rfl (fun _ => by revert d; decide)

theorem encSysF2 (d1 d2 : Data7) : Statement (.encSysF2 d1 d2) := ofMessage rfl (fun _ => encSysF2_decode d1 d2)

theorem push (b : Byte) : Statement (.push b) := ofNone rfl

theorem pop : Statement .pop := ofNone rfl

theorem drain : Statement .drain := ofNone rfl

theorem parse (b : Byte) : Statement (.parse b) := ofNone rfl

theorem deliver (m : Message) : Statement (.deliver m) := ofNone rfl

theorem mbxTake : Statement .mbxTake := ofNone rfl

theorem decode (p : Packet) : Statement (.decode p) := ofNone rfl

theorem encode (m : Message) : Statement (.encode m) := ofNone rfl

theorem onParserMessage (m : Message) : Statement (.onParserMessage m) := ofNone rfl

theorem mirror (m : Message) : Statement (.mirror m) := ofNone rfl

theorem route (m : Message) : Statement (.route m) := ofNone rfl

theorem onHostMessage (m : Message) : Statement (.onHostMessage m) := ofNone rfl

theorem policyDrop (m : Message) : Statement (.policyDrop m) := ofNone rfl

theorem forward (m : Message) (e : Fin nInt) : Statement (.forward m e) := ofNone rfl

theorem pulse : Statement .pulse := ofNone rfl

theorem mapReplace (map : Vector Byte 16) (enable : Vector Bool nInt) : Statement (.mapReplace map enable) := ofNone rfl

theorem send (b : Byte) : Statement (.send b) := ofNone rfl

theorem flush : Statement .flush := ofNone rfl

theorem linkPop : Statement .linkPop := ofNone rfl

theorem poll : Statement .poll := ofNone rfl

theorem init (transportOk : Bool) (gap : Option Time) : Statement (.init transportOk gap) := ofNone rfl

end Sys2Proof.Laws.DecodeEncode
end

