-- ==== Sys2Proof/Laws/Poll.lean ====
section
/-! SUPPORT. What a step of the sequencer can do and what it leaves (spec/45_poll_loop.md R244, spec/60_exceptions.md
R280): the lemmas to cite instead of unfolding `pollStep`, `serveCall`, `sendStep` and `ringPush`. -/

namespace Sys2Proof.Machine

open Sys2Proof

/-- What every operation of the poll context leaves. -/
structure PollFrame (s t : State) : Prop where
  config : t.config = s.config
  mem : t.ring.mem = s.ring.mem
  wr : t.ring.wr = s.ring.wr
  overflow : t.ring.overflow = s.ring.overflow
  chmap : t.chmap = s.chmap
  active : t.active = s.active
  initFail : t.initFail = s.initFail
  gap : t.link.minGapUs = s.link.minGapUs
  linkOut : t.out.linkOut = s.out.linkOut
  /-- bytes are appended at the back of `hwq` only -/
  hwq : ∃ bs, t.link.hwq = s.link.hwq ++ bs

/-- An operation that leaves `hwq`. -/
theorem PollFrame.keep {s t : State} (config : t.config = s.config) (mem : t.ring.mem = s.ring.mem)
    (wr : t.ring.wr = s.ring.wr) (overflow : t.ring.overflow = s.ring.overflow) (chmap : t.chmap = s.chmap)
    (active : t.active = s.active) (initFail : t.initFail = s.initFail) (gap : t.link.minGapUs = s.link.minGapUs)
    (linkOut : t.out.linkOut = s.out.linkOut) (hwq : t.link.hwq = s.link.hwq) : PollFrame s t :=
  ⟨config, mem, wr, overflow, chmap, active, initFail, gap, linkOut, [], by rw [hwq, List.append_nil]⟩

theorem PollFrame.of {s t : State} (h : ParserFrame s t) : PollFrame s t :=
  .keep h.config (by rw [h.ring]) (by rw [h.ring]) (by rw [h.ring]) h.chmap h.active h.initFail (by rw [h.link]) h.linkOut
    (by rw [h.link])

theorem PollFrame.trans' {s t u : State} (h : PollFrame s t) (g : PollFrame t u) : PollFrame s u := by
  obtain ⟨bs, hb⟩ := h.hwq
  obtain ⟨cs, hc⟩ := g.hwq
  exact ⟨g.1.trans h.1, g.2.trans h.2, g.3.trans h.3, g.4.trans h.4, g.5.trans h.5, g.6.trans h.6, g.7.trans h.7,
    g.8.trans h.8, g.9.trans h.9, bs ++ cs, by rw [hc, hb, List.append_assoc]⟩

/-- The enqueue appends its byte (spec/44_link_tx.md R220). -/
theorem enqueue_frame (b : Byte) (s : State) : PollFrame s (enqueue b s) :=
  ⟨rfl, rfl, rfl, rfl, rfl, rfl, rfl, rfl, rfl, [b], rfl⟩

/-- Taking the byte just sent off `tx_pend` leaves the link. -/
theorem dropSent_frame (rest : List Byte) (s : State) : PollFrame s (dropSent rest s) := by
  unfold dropSent
  dsimp only
  split <;> apply PollFrame.keep <;> rfl

/-- Everything a `PUSH` can do (spec/40_ring_buffer.md R110). -/
theorem ringPush_cases (b : Byte) (s : State) :
    (ringFull s = true ∧
        ringPush b s = raise (.ringOverflow b) { s with ring := { s.ring with overflow := s.ring.overflow + 1#32 } }) ∨
      (ringFull s = false ∧
        ringPush b s =
          { s with
            ring := { s.ring with mem := s.ring.mem.write (ringIndex s s.ring.wr) b, wr := ringNext s s.ring.wr } }) := by
  cases h : ringFull s <;> simp [ringPush, h]

/-- Everything a `SEND_STEP` can do (spec/45_poll_loop.md R243). -/
theorem sendStep_cases (s : State) :
    sendStep s = s ∨
      ∃ b rest, s.seq.txPend = b :: rest ∧ sendReady s = true ∧ sendStep s = dropSent rest (enqueue b s) := by
  unfold sendStep
  split
  · exact .inl rfl
  · split
    · exact .inr ⟨_, _, ‹_›, ‹_›, rfl⟩
    · exact .inl rfl

/-- A `RING_STEP` writes what the poll context owns, and no input of the environment. -/
theorem ringStep_frame (s : State) : PollFrame s (ringStep s) ∧ (ringStep s).env = s.env := by
  unfold ringStep
  split
  · exact ⟨by apply PollFrame.keep <;> rfl, rfl⟩
  · rename_i b u hp
    have := (ringPop_some hp).2.2
    subst this
    refine ⟨PollFrame.trans' ?_ (PollFrame.of (parse_frame b _)), (parse_frame b _).env⟩
    apply PollFrame.keep <;> rfl

/-- A step of a call writes what the poll context owns, and no input of the environment. -/
theorem serveCall_frame (s : State) : PollFrame s (serveCall s) ∧ (serveCall s).env = s.env := by
  unfold serveCall
  split
  · exact ⟨by apply PollFrame.keep <;> rfl, rfl⟩
  · split
    · exact ⟨by apply PollFrame.keep <;> rfl, rfl⟩
    · exact ringStep_frame s
  · unfold mbxTake; split <;> exact ⟨by apply PollFrame.keep <;> rfl, rfl⟩
  · split
    · exact ⟨.trans' (t := returnCall _ s) (by apply PollFrame.keep <;> rfl) (enqueue_frame _ _), rfl⟩
    · exact ⟨by apply PollFrame.keep <;> rfl, rfl⟩
  · split
    · unfold flushSettle; split <;> exact ⟨by apply PollFrame.keep <;> rfl, rfl⟩
    · split
      · unfold flushSettle; split <;> exact ⟨by apply PollFrame.keep <;> rfl, rfl⟩
      · exact ⟨by apply PollFrame.keep <;> rfl, rfl⟩

/-- A step of the sequencer writes what the poll context owns, and `host_in`. -/
theorem pollStep_frame (s : State) : PollFrame s (pollStep s) := by
  unfold pollStep
  split
  · split
    · unfold phaseStep
      split
      · split
        · apply PollFrame.keep <;> rfl
        · exact (ringStep_frame s).1
      · split
        · apply PollFrame.keep <;> rfl
        · rename_i p rest h
          refine PollFrame.trans' ?_ (PollFrame.of (hostPacket_frame p _).toParserFrame)
          apply PollFrame.keep <;> rfl
    · exact (serveCall_frame s).1
  · unfold sendStep
    split
    · apply PollFrame.keep <;> rfl
    · split
      · exact (enqueue_frame _ s).trans' (dropSent_frame _ _)
      · apply PollFrame.keep <;> rfl

/-- Everything a step of the sequencer, or of the oldest call, can do (spec/45_poll_loop.md R244): what holds in each case
holds of the step. -/
theorem pollStep_cases (s : State) (P : State → Prop) (h0 : P s)
    (hset : ∀ p, P (setPhase p s))
    (hparse : ringEmpty s = false → ∀ b, P (parse b { s with ring := { s.ring with rd := ringNext s s.ring.rd } }))
    (hhost : ∀ p rest, s.env.hostIn = p :: rest → P (hostPacket p { s with env := { s.env with hostIn := rest } }))
    (hret : ∀ rest, P (returnCall rest s))
    (hmbx : ∀ rest, P (mbxTake (returnCall rest s)))
    (hsend : ∀ b rest, sendReady s = true → P (enqueue b (returnCall rest s)))
    (hflush : ∀ rest, P (respond .flushed (returnCall rest s)))
    (hwait : ∀ t0, P { s with seq := { s.seq with flushT0 := some t0 } })
    (hdrop : ∀ b rest, sendReady s = true → s.seq.txPend = b :: rest → P (dropSent rest (enqueue b s))) :
    P (pollStep s) ∧ P (serveCall s) := by
  have hring : P (ringStep s) := by
    unfold ringStep
    split
    · exact h0
    · rename_i b u hp
      obtain ⟨he, -, hu⟩ := ringPop_some hp
      subst hu
      exact hparse he b
  have hserve : P (serveCall s) := by
    unfold serveCall
    split
    · exact h0
    · split
      · exact hret _
      · exact hring
    · exact hmbx _
    · split
      · exact hsend _ _ ‹_›
      · exact h0
    · split
      · unfold flushSettle; split
        · exact hflush _
        · exact hwait _
      · split
        · unfold flushSettle; split
          · exact hflush _
          · exact hwait _
        · exact h0
  refine ⟨?_, hserve⟩
  unfold pollStep
  split
  · split
    · unfold phaseStep
      split
      · split
        · exact hset _
        · exact hring
      · split
        · exact hset _
        · exact hhost _ _ ‹_›
    · exact hserve
  · unfold sendStep
    split
    · exact h0
    · split
      · exact hdrop _ _ ‹_› ‹_›
      · exact h0

end Sys2Proof.Machine
end

