-- ==== Sys2Proof/Tests/Slice0.lean ====
section
/-! SUPPORT. The model's own tests: ill-formed operands are refused, words written out from the spec decode, single steps
give the values of spec/95_test_vectors.md, and for every statement with hypotheses a concrete state and operands that
meet them. Expected values come from the spec, not from the model. -/

namespace Sys2Proof.Tests

open Sys2Proof Sys2Proof.Machine

/-! ### Small states -/

/-- After reset and a successful `INIT`, with a session: the start state of spec/95_test_vectors.md section 0. -/
def ready : State := { State.reset with active := true, env := { State.reset.env with hostReady := true } }

/-- `ready` with the parser as given. -/
def parsing (p : Parser) : State := { ready with parser := p }

def parserIdle : Parser := State.reset.parser

/-- `Idle` under running status `s`. -/
def parserRunning (s : Byte) : Parser := { parserIdle with rsValid := true, rsStatus := s }

/-- `CollectingData1`, a channel-voice status `s` collected. -/
def parserOne (s : Byte) (need : Nat) : Parser :=
  { st := .collectingData1, rsValid := true, rsStatus := s, accRaw := #v[s, 0#8, 0#8], accLen := 1, accNeed := need }

/-- `CollectingData2`, a channel-voice status `s` and one data byte collected. -/
def parserTwo (s d : Byte) : Parser :=
  { st := .collectingData2, rsValid := true, rsStatus := s, accRaw := #v[s, d, 0#8], accLen := 2, accNeed := 1 }

/-- `CollectingData1` after a data-bearing system-common status. -/
def parserSystem (s : Byte) (need : Nat) : Parser :=
  { st := .collectingData1, rsValid := false, rsStatus := 0#8, accRaw := #v[s, 0#8, 0#8], accLen := 1, accNeed := need }

def parserBlock : Parser := { parserIdle with st := .ignoringSystemBlock }

/-- In a block, with `SYSEX_STATUS_ABORTS`. -/
def aborting : State :=
  { parsing parserBlock with config := { Config.vectors with sysexAborts := true } }

/-- `ready` with a ring of the given indices and cells. -/
def ringOf (mem : Memory) (wr rd : Nat) : State := { ready with ring := { ready.ring with mem := mem, wr := wr, rd := rd } }

/-- Seven bytes held, the ring of spec/95_test_vectors.md V8 after its accepted pushes. -/
def ringV8 : State :=
  ringOf [(0, 1#8), (1, 2#8), (2, 3#8), (3, 4#8), (4, 5#8), (5, 6#8), (6, 7#8)] 7 0

/-- `ready` with packets waiting, in the host phase. -/
def hostPhase (ps : List Packet) : State :=
  { ready with seq := { ready.seq with phase := .host }, env := { ready.env with hostIn := ps } }

/-- `ready` with a byte already sent at `last`, the present instant `now`, and a queue. -/
def linkAt (last now : Time) (q : List Byte) : State :=
  { ready with
    link := { ready.link with lastUs := last, lastValid := true, hwq := q }
    env := { ready.env with now := now } }

/-- A state with bytes of a forward still to send. -/
def pending (bs : List Byte) (s : State) : State := { s with seq := { s.seq with txPend := bs } }

/-- A state with unfinished calls. -/
def calling (cs : List Call) (s : State) : State := { s with seq := { s.seq with calls := cs } }

/-- A state with turns to come. -/
def turns (ts : List Turn) (s : State) : State := { s with env := { s.env with sched := ts } }

/-- The next state of an instruction, if it answers one. -/
def after (i : Instr) (s : State) : Option State :=
  match exec i s with
  | .next t => some t
  | .fault _ => none
  | .refused _ => none

/-- The next state of a step, if it answers one. -/
def stepped (s : State) : Option State :=
  match step s with
  | .next t => some t
  | .fault _ => none
  | .refused _ => none

def noteOn (ch : Byte) : Message := { raw := [0x90#8 ||| ch, 0x40#8, 0x7F#8] }

/-! ### Well-formedness: each check refuses an ill-formed term -/

/-- `RB_CAP = 2^k` with `k >= 1` (R7). -/
theorem test_wf_ring_size : Config.wf { Config.vectors with rbLog := 0 } = false := by decide

/-- `HWQ_DEPTH >= 1` (R7). -/
theorem test_wf_queue_depth : Config.wf { Config.vectors with hwqDepth := 0 } = false := by decide

/-- `F7` is no discarded status byte, `F6` is (R100). -/
theorem test_wf_in_block_status :
    (Instr.inBlockStatus 0x77#7).wf = false ∧ (Instr.inBlockStatus 0x76#7).wf = true :=
  by decide

/-- Records that are no Message of R30: wrong length, null, no kind, a data byte first, a status byte as data. -/
theorem test_wf_message_operands :
    (Instr.deliver { raw := [0x90#8, 0x40#8] }).wf = false ∧ (Instr.encode { raw := [] }).wf = false ∧
    (Instr.onParserMessage { raw := [0xF4#8] }).wf = false ∧ (Instr.mirror { raw := [0x40#8] }).wf = false ∧
    (Instr.route { raw := [0x90#8, 0x40#8, 0x80#8] }).wf = false ∧ (Instr.onHostMessage { raw := [0xF2#8, 0x10#8] }).wf = false :=
  by decide

/-- Messages that are not channel-voice (R205, R207). -/
theorem test_wf_voice_operands :
    (Instr.policyDrop { raw := [0xF8#8] }).wf = false ∧ (Instr.forward { raw := [0xF8#8] } 0).wf = false ∧
    (Instr.encChannelVoice { raw := [0xF1#8, 0x23#8] }).wf = false :=
  by decide

/-! ### Decoding: words written out from spec/30_encoding.md -/

def ctxIdle : DecodeCtx := { st := .idle, rsValid := false, sysexAborts := false }

def ctxRunning : DecodeCtx := { st := .idle, rsValid := true, sysexAborts := false }

def ctxOne : DecodeCtx := { st := .collectingData1, rsValid := true, sysexAborts := false }

def ctxTwo : DecodeCtx := { st := .collectingData2, rsValid := true, sysexAborts := false }

def ctxBlock : DecodeCtx := { st := .ignoringSystemBlock, rsValid := false, sysexAborts := false }

theorem test_decode_noteOffStatus : decodeByte ctxIdle 0b10000011#8 = .noteOffStatus 3#4 := by decide

theorem test_decode_noteOnStatus : decodeByte ctxIdle 0b10010100#8 = .noteOnStatus 4#4 := by decide

theorem test_decode_polyPressureStatus : decodeByte ctxIdle 0b10100001#8 = .polyPressureStatus 1#4 := by decide

theorem test_decode_controlChangeStatus : decodeByte ctxIdle 0b10110000#8 = .controlChangeStatus 0#4 := by decide

theorem test_decode_programChangeStatus : decodeByte ctxIdle 0b11000010#8 = .programChangeStatus 2#4 := by decide

theorem test_decode_channelPressureStatus : decodeByte ctxIdle 0b11011111#8 = .channelPressureStatus 15#4 := by decide

theorem test_decode_pitchBendStatus : decodeByte ctxIdle 0b11101000#8 = .pitchBendStatus 8#4 := by decide

theorem test_decode_sysexStart : decodeByte ctxOne 0b11110000#8 = .sysexStart := by decide

theorem test_decode_sysF1 : decodeByte ctxOne 0b11110001#8 = .sysF1 := by decide

theorem test_decode_sysF2 : decodeByte ctxOne 0b11110010#8 = .sysF2 := by decide

theorem test_decode_sysF3 : decodeByte ctxOne 0b11110011#8 = .sysF3 := by decide

theorem test_decode_undefF4 : decodeByte ctxOne 0b11110100#8 = .undefF4 := by decide

theorem test_decode_undefF5 : decodeByte ctxOne 0b11110101#8 = .undefF5 := by decide

theorem test_decode_tuneRequest : decodeByte ctxOne 0b11110110#8 = .tuneRequest := by decide

theorem test_decode_strayF7 : decodeByte ctxOne 0b11110111#8 = .strayF7 := by decide

theorem test_decode_sysexEnd : decodeByte ctxBlock 0b11110111#8 = .sysexEnd := by decide

theorem test_decode_inBlockStatus : decodeByte ctxBlock 0b10010000#8 = .inBlockStatus 16#7 := by decide

theorem test_decode_rtF8 : decodeByte ctxBlock 0b11111000#8 = .rtF8 := by decide

theorem test_decode_rtF9 : decodeByte ctxBlock 0b11111001#8 = .rtF9 := by decide

theorem test_decode_rtFA : decodeByte ctxBlock 0b11111010#8 = .rtFA := by decide

theorem test_decode_rtFB : decodeByte ctxBlock 0b11111011#8 = .rtFB := by decide

theorem test_decode_rtFC : decodeByte ctxBlock 0b11111100#8 = .rtFC := by decide

theorem test_decode_rtFD : decodeByte ctxBlock 0b11111101#8 = .rtFD := by decide

theorem test_decode_rtFE : decodeByte ctxBlock 0b11111110#8 = .rtFE := by decide

theorem test_decode_rtFF : decodeByte ctxBlock 0b11111111#8 = .rtFF := by decide

theorem test_decode_dataResume : decodeByte ctxRunning 0b01000000#8 = .dataResume 64#7 := by decide

theorem test_decode_dataFirst : decodeByte ctxOne 0b00111100#8 = .dataFirst 60#7 := by decide

theorem test_decode_dataSecond : decodeByte ctxTwo 0b01111111#8 = .dataSecond 127#7 := by decide

theorem test_decode_dataStray : decodeByte ctxIdle 0b00000101#8 = .dataStray 5#7 := by decide

theorem test_decode_dataInBlock : decodeByte ctxBlock 0b00000001#8 = .dataInBlock 1#7 := by decide

theorem test_decode_pktCin0 :
    decodePacket { p0 := 0xF0#8, p1 := 0x90#8, p2 := 0x40#8, p3 := 0x7F#8 } =
    .pktCin0 15#4 0x90#8 0x40#8 0x7F#8 :=
  by decide

theorem test_decode_pktCin1 :
    decodePacket { p0 := 0x01#8, p1 := 0xF8#8, p2 := 0x00#8, p3 := 0x00#8 } =
    .pktCin1 0#4 0xF8#8 0x00#8 0x00#8 :=
  by decide

theorem test_decode_pktSys2 :
    decodePacket { p0 := 0x02#8, p1 := 0xF1#8, p2 := 0x23#8, p3 := 0x00#8 } =
    .pktSys2 0#4 0xF1#8 0x23#8 0x00#8 :=
  by decide

theorem test_decode_pktSys3 :
    decodePacket { p0 := 0x03#8, p1 := 0xF2#8, p2 := 0x10#8, p3 := 0x02#8 } =
    .pktSys3 0#4 0xF2#8 0x10#8 0x02#8 :=
  by decide

theorem test_decode_pktCin4 :
    decodePacket { p0 := 0x04#8, p1 := 0xF0#8, p2 := 0x01#8, p3 := 0x02#8 } =
    .pktCin4 0#4 0xF0#8 0x01#8 0x02#8 :=
  by decide

theorem test_decode_pktSys1 :
    decodePacket { p0 := 0x05#8, p1 := 0xF6#8, p2 := 0x00#8, p3 := 0x00#8 } =
    .pktSys1 0#4 0xF6#8 0x00#8 0x00#8 :=
  by decide

theorem test_decode_pktCin6 :
    decodePacket { p0 := 0x06#8, p1 := 0x01#8, p2 := 0xF7#8, p3 := 0x00#8 } =
    .pktCin6 0#4 0x01#8 0xF7#8 0x00#8 :=
  by decide

theorem test_decode_pktCin7 :
    decodePacket { p0 := 0x07#8, p1 := 0x01#8, p2 := 0x02#8, p3 := 0xF7#8 } =
    .pktCin7 0#4 0x01#8 0x02#8 0xF7#8 :=
  by decide

theorem test_decode_pktNoteOff :
    decodePacket { p0 := 0x08#8, p1 := 0x83#8, p2 := 0x3C#8, p3 := 0x40#8 } =
    .pktNoteOff 0#4 0x83#8 0x3C#8 0x40#8 :=
  by decide

theorem test_decode_pktNoteOn :
    decodePacket { p0 := 0x19#8, p1 := 0x94#8, p2 := 0x40#8, p3 := 0x7F#8 } =
    .pktNoteOn 1#4 0x94#8 0x40#8 0x7F#8 :=
  by decide

theorem test_decode_pktPolyPressure :
    decodePacket { p0 := 0x0A#8, p1 := 0xA1#8, p2 := 0x3C#8, p3 := 0x20#8 } =
    .pktPolyPressure 0#4 0xA1#8 0x3C#8 0x20#8 :=
  by decide

theorem test_decode_pktControlChange :
    decodePacket { p0 := 0x0B#8, p1 := 0xB0#8, p2 := 0x07#8, p3 := 0x64#8 } =
    .pktControlChange 0#4 0xB0#8 0x07#8 0x64#8 :=
  by decide

theorem test_decode_pktProgramChange :
    decodePacket { p0 := 0x0C#8, p1 := 0xC2#8, p2 := 0x05#8, p3 := 0x00#8 } =
    .pktProgramChange 0#4 0xC2#8 0x05#8 0x00#8 :=
  by decide

theorem test_decode_pktChannelPressure :
    decodePacket { p0 := 0x0D#8, p1 := 0xDF#8, p2 := 0x7F#8, p3 := 0x00#8 } =
    .pktChannelPressure 0#4 0xDF#8 0x7F#8 0x00#8 :=
  by decide

theorem test_decode_pktPitchBend :
    decodePacket { p0 := 0x0E#8, p1 := 0xE0#8, p2 := 0x00#8, p3 := 0x40#8 } =
    .pktPitchBend 0#4 0xE0#8 0x00#8 0x40#8 :=
  by decide

theorem test_decode_pktSingleByte :
    decodePacket { p0 := 0x0F#8, p1 := 0xF8#8, p2 := 0x00#8, p3 := 0x00#8 } =
    .pktSingleByte 0#4 0xF8#8 0x00#8 0x00#8 :=
  by decide

theorem test_decode_encChannelVoice :
    decodeMessage { raw := [0xC2#8, 0x05#8] } = .ok (.encChannelVoice { raw := [0xC2#8, 0x05#8] }) :=
  rfl

theorem test_decode_encRealTime : decodeMessage { raw := [0xFA#8] } = .ok (.encRealTime 2#3) := rfl

theorem test_decode_encSysF0 : decodeMessage { raw := [0xF0#8] } = .ok .encSysF0 := rfl

theorem test_decode_encSysF6 : decodeMessage { raw := [0xF6#8] } = .ok .encSysF6 := rfl

theorem test_decode_encSysF1 : decodeMessage { raw := [0xF1#8, 0x23#8] } = .ok (.encSysF1 35#7) := rfl

theorem test_decode_encSysF3 : decodeMessage { raw := [0xF3#8, 0x07#8] } = .ok (.encSysF3 7#7) := rfl

theorem test_decode_encSysF2 : decodeMessage { raw := [0xF2#8, 0x10#8, 0x02#8] } = .ok (.encSysF2 16#7 2#7) := rfl

/-- F4 has no kind, a note-on has two data bytes, the null message is not encoded, a record has four bytes. -/
theorem test_decode_rejects_by_name :
    decodeMessage { raw := [0xF4#8] } = .error (.noKind 0xF4#8) ∧
    decodeMessage { raw := [0x90#8, 0x40#8] } = .error .notAMessage ∧ decodeMessage { raw := [] } = .error .nullMessage ∧
    decodeFormat ctxIdle .packet [0x09#8, 0x90#8, 0x40#8] = .error .shortPacket ∧
    decodeFormat ctxIdle .stream [] = .error .endOfStream :=
  ⟨rfl, rfl, rfl, rfl, rfl⟩

/-- The table's 8-bit word is one stream byte. -/
theorem test_table_word_stream : decodeTableWord 8 0x94 = some (.noteOnStatus 4#4) := by decide

/-- The table's 32-bit word holds `p[0]` in bits 7:0 (R62). -/
theorem test_table_word_packet :
    decodeTableWord 32 0x7F409419 = some (.pktNoteOn 1#4 0x94#8 0x40#8 0x7F#8) :=
  by decide

/-- The very next step runs a placed word. -/
theorem test_table_word_runs :
    stepped (State.reset.withFetchWord 32 0x7F409409) = after (.pktNoteOn 0#4 0x94#8 0x40#8 0x7F#8)
    (State.reset.withFetchWord 32 0x7F409409 |> fun s => { s with env := { s.env with hostIn := [] } }) :=
  by decide

/-! ### Single steps: the vectors of spec/95_test_vectors.md -/

/-- V8: the eighth byte is rejected and counted. -/
theorem test_push_v8 :
    (after (.push 0x08#8) ringV8).map (fun t => (t.ring.overflow, t.ring.wr, t.ring.mem == ringV8.ring.mem)) =
    some (1#32, 7, true) :=
  by decide

/-- The example of R110. -/
theorem test_push_wraps :
    (after (.push 0x90#8) (ringOf [] 7 3)).map (fun t => (t.ring.mem, t.ring.wr)) = some ([(7, 0x90#8)], 0) :=
  by decide


/-- The example of R112. -/
theorem test_pop_wraps :
    (after .pop (ringOf [(7, 0x40#8)] 2 7)).map (fun t => (t.out.resp, t.ring.rd)) = some (.popped (some 0x40#8), 0) :=
  by decide

/-- RB6. -/
theorem test_pop_empty :
    (after .pop ready).map (fun t => (t.out.resp, t.ring)) = some (.popped none, ready.ring) :=
  by decide

/-- R113: one iteration, the call unfinished. -/
theorem test_drain_parses :
    (after .drain (ringOf [(0, 0xF1#8)] 1 0)).map (fun t => (t.parser.accRaw[0], t.ring.rd, t.seq.calls)) =
    some (0xF1#8, 1, [.drain]) :=
  by decide

/-- PV5: the same status byte repeated. -/
theorem test_voice_status_restarts :
    (after (.noteOnStatus 0#4) (parsing (parserOne 0x90#8 2))).map
    (fun t => (t.out.events, t.parser)) = some ([.partialAbandoned 0x90#8], parserOne 0x90#8 2) :=
  by decide

/-- The data counts of R122 to R128. -/
theorem test_voice_needs :
    (after (.programChangeStatus 2#4) ready).map (fun t => (t.parser.accNeed, t.parser.rsStatus)) = some (1, 0xC2#8) ∧
    (after (.noteOffStatus 3#4) ready).map (fun t => (t.parser.accNeed, t.parser.rsStatus)) = some (2, 0x83#8) ∧
    (after (.polyPressureStatus 1#4) ready).map (fun t => (t.parser.accNeed, t.parser.rsStatus)) = some (2, 0xA1#8) ∧
    (after (.controlChangeStatus 0#4) ready).map (fun t => (t.parser.accNeed, t.parser.rsStatus)) = some (2, 0xB0#8) ∧
    (after (.channelPressureStatus 15#4) ready).map (fun t => (t.parser.accNeed, t.parser.rsStatus)) = some (1, 0xDF#8) ∧
    (after (.pitchBendStatus 0#4) ready).map (fun t => (t.parser.accNeed, t.parser.rsStatus)) = some (2, 0xE0#8) :=
  by decide

/-- R131. -/
theorem test_sysex_start :
    (after .sysexStart (parsing (parserRunning 0x90#8))).map (fun t => (t.parser.st, t.parser.rsValid)) =
    some (.ignoringSystemBlock, false) :=
  by decide

/-- PV22. -/
theorem test_sysF1_clears_running :
    (after .sysF1 (parsing (parserRunning 0x90#8))).map (fun t => (t.parser.rsValid, t.parser.accNeed, t.parser.accRaw[0])) =
    some (false, 1, 0xF1#8) :=
  by decide

/-- PV8. -/
theorem test_sysF2_needs_two :
    (after .sysF2 ready).map (fun t => (t.parser.st, t.parser.accNeed, t.parser.accRaw[0])) = some (.collectingData1, 2, 0xF2#8) :=
  by decide

/-- PV9. -/
theorem test_sysF3_needs_one :
    (after .sysF3 ready).map (fun t => (t.parser.st, t.parser.accNeed, t.parser.accRaw[0])) = some (.collectingData1, 1, 0xF3#8) :=
  by decide

/-- PV11. -/
theorem test_undefF4_abandons :
    (after .undefF4 (parsing (parserTwo 0x90#8 0x40#8))).map (fun t => (t.parser.st, t.parser.rsValid, t.out.events)) =
    some (.idle, false, [.partialAbandoned 0x90#8, .undefinedStatus 0xF4#8]) :=
  by decide

/-- PV12. -/
theorem test_undefF5_abandons :
    (after .undefF5 (parsing (parserOne 0xB0#8 2))).map (fun t => t.out.events) =
    some [.partialAbandoned 0xB0#8, .undefinedStatus 0xF5#8] :=
  by decide

/-- PV13. -/
theorem test_strayF7_clears_running :
    (after .strayF7 (parsing (parserRunning 0x90#8))).map (fun t => (t.parser.rsValid, t.out.events)) =
    some (false, [.undefinedStatus 0xF7#8]) :=
  by decide

/-- V4: nothing is emitted for the terminator. -/
theorem test_sysexEnd_leaves :
    (after .sysexEnd (parsing parserBlock)).map (fun t => (t.parser.st, t.out)) = some (.idle, ready.out) :=
  by decide

/-- PV21: a second `F0` is discarded in the block. -/
theorem test_inBlockStatus_discarded :
    (after (.inBlockStatus 0x70#7) (parsing parserBlock)).map (fun t => (t.parser, t.out.events)) =
    some (parserBlock, [.sysexDiscard 0xF0#8]) :=
  by decide

/-- PV25b: with `SYSEX_STATUS_ABORTS` the status byte is parsed. -/
theorem test_abort_leaves_block :
    (after (.parse 0x90#8) aborting).map (fun t => (t.parser.st, t.parser.rsStatus, t.out.events)) =
    some (.collectingData1, 0x90#8, []) :=
  by decide

/-- PV10. -/
theorem test_tune_request :
    (after .tuneRequest (parsing (parserOne 0x90#8 2))).map (fun t => (t.mbx.msg, t.out.hostOut, t.parser.rsValid)) =
    some ({ raw := [0xF6#8] }, [{ p0 := 0x05#8, p1 := 0xF6#8, p2 := 0#8, p3 := 0#8 }], false) :=
  by decide

/-- PV19, in the middle of a message (PV15). -/
theorem test_rtF8_delivers :
    (after .rtF8 (parsing (parserTwo 0x90#8 0x40#8))).map (fun t => (t.mbx.msg, t.out.hostOut, t.parser)) =
    some ({ raw := [0xF8#8] }, [{ p0 := 0x0F#8, p1 := 0xF8#8, p2 := 0#8, p3 := 0#8 }], parserTwo 0x90#8 0x40#8) :=
  by decide

/-- PV19, in the middle of a message (PV15). -/
theorem test_rtF9_delivers :
    (after .rtF9 (parsing (parserTwo 0x90#8 0x40#8))).map (fun t => (t.mbx.msg, t.out.hostOut, t.parser)) =
    some ({ raw := [0xF9#8] }, [{ p0 := 0x0F#8, p1 := 0xF9#8, p2 := 0#8, p3 := 0#8 }], parserTwo 0x90#8 0x40#8) :=
  by decide

/-- PV19, in the middle of a message (PV15). -/
theorem test_rtFA_delivers :
    (after .rtFA (parsing (parserTwo 0x90#8 0x40#8))).map (fun t => (t.mbx.msg, t.out.hostOut, t.parser)) =
    some ({ raw := [0xFA#8] }, [{ p0 := 0x0F#8, p1 := 0xFA#8, p2 := 0#8, p3 := 0#8 }], parserTwo 0x90#8 0x40#8) :=
  by decide

/-- PV19, in the middle of a message (PV15). -/
theorem test_rtFB_delivers :
    (after .rtFB (parsing (parserTwo 0x90#8 0x40#8))).map (fun t => (t.mbx.msg, t.out.hostOut, t.parser)) =
    some ({ raw := [0xFB#8] }, [{ p0 := 0x0F#8, p1 := 0xFB#8, p2 := 0#8, p3 := 0#8 }], parserTwo 0x90#8 0x40#8) :=
  by decide

/-- PV19, in the middle of a message (PV15). -/
theorem test_rtFC_delivers :
    (after .rtFC (parsing (parserTwo 0x90#8 0x40#8))).map (fun t => (t.mbx.msg, t.out.hostOut, t.parser)) =
    some ({ raw := [0xFC#8] }, [{ p0 := 0x0F#8, p1 := 0xFC#8, p2 := 0#8, p3 := 0#8 }], parserTwo 0x90#8 0x40#8) :=
  by decide

/-- PV19, in the middle of a message (PV15). -/
theorem test_rtFD_delivers :
    (after .rtFD (parsing (parserTwo 0x90#8 0x40#8))).map (fun t => (t.mbx.msg, t.out.hostOut, t.parser)) =
    some ({ raw := [0xFD#8] }, [{ p0 := 0x0F#8, p1 := 0xFD#8, p2 := 0#8, p3 := 0#8 }], parserTwo 0x90#8 0x40#8) :=
  by decide

/-- PV19, in the middle of a message (PV15). -/
theorem test_rtFE_delivers :
    (after .rtFE (parsing (parserTwo 0x90#8 0x40#8))).map (fun t => (t.mbx.msg, t.out.hostOut, t.parser)) =
    some ({ raw := [0xFE#8] }, [{ p0 := 0x0F#8, p1 := 0xFE#8, p2 := 0#8, p3 := 0#8 }], parserTwo 0x90#8 0x40#8) :=
  by decide

/-- PV19, in the middle of a message (PV15). -/
theorem test_rtFF_delivers :
    (after .rtFF (parsing (parserTwo 0x90#8 0x40#8))).map (fun t => (t.mbx.msg, t.out.hostOut, t.parser)) =
    some ({ raw := [0xFF#8] }, [{ p0 := 0x0F#8, p1 := 0xFF#8, p2 := 0#8, p3 := 0#8 }], parserTwo 0x90#8 0x40#8) :=
  by decide

/-- V2, fourth byte. -/
theorem test_dataResume_collects :
    (after (.dataResume 0x40#7) (parsing (parserRunning 0x90#8))).map (fun t => (t.parser.st, t.parser.accNeed)) =
    some (.collectingData2, 1) :=
  by decide

/-- PV2. -/
theorem test_dataFirst_completes :
    (after (.dataFirst 5#7) (parsing (parserOne 0xC2#8 1))).map (fun t => (t.mbx.msg, t.parser.st, t.seq.txPend)) =
    some ({ raw := [0xC2#8, 0x05#8] }, .idle, [0xC2#8, 0x05#8]) :=
  by decide

/-- V2, fifth byte: the note-off, with running status kept. -/
theorem test_dataSecond_normalises :
    (after (.dataSecond 0#7) (parsing (parserTwo 0x90#8 0x40#8))).map (fun t => (t.mbx.msg, t.parser.rsStatus)) =
    some ({ raw := [0x80#8, 0x40#8, 0x00#8] }, 0x90#8) :=
  by decide

/-- PV23. -/
theorem test_dataSecond_top_channel :
    (after (.dataSecond 0#7) (parsing (parserTwo 0x9F#8 0x00#8))).map (fun t => (t.out.hostOut, t.rtDrop)) =
    some ([{ p0 := 0x08#8, p1 := 0x8F#8, p2 := 0#8, p3 := 0#8 }], 1#32) :=
  by decide

/-- PV14. -/
theorem test_dataStray_discarded :
    (after (.dataStray 0x40#7) ready).map (fun t => (t.parser, t.out.events)) = some (parserIdle, [.strayData 0x40#8]) :=
  by decide

/-- V4. -/
theorem test_dataInBlock_discarded :
    (after (.dataInBlock 1#7) (parsing parserBlock)).map (fun t => t.out.events) = some [.sysexDiscard 0x01#8] :=
  by decide

/-- V2, third byte. -/
theorem test_parse_is_the_row :
    (after (.parse 0x7F#8) (parsing (parserTwo 0x90#8 0x40#8))).map (fun t => t.mbx.msg) = some (noteOn 0#8) :=
  by decide

/-- XV2. -/
theorem test_deliver_overwrites :
    (after (.deliver { raw := [0x80#8, 0x40#8, 0x00#8] }) { ready with mbx := { full := true, msg := noteOn 0#8 } }).map
    (fun t => (t.mbx.msg, t.out.events)) = some ({ raw := [0x80#8, 0x40#8, 0x00#8] }, [.mailboxOverwrite (noteOn 0#8)]) :=
  by decide

/-- The mailbox part of section 2.2. -/
theorem test_mbxTake_full :
    (after .mbxTake { ready with mbx := { full := true, msg := noteOn 0#8 } }).map (fun t => (t.out.resp, t.mbx.full)) =
    some (.mailbox (some (noteOn 0#8)), false) :=
  by decide

/-- The mailbox part of section 2.2. -/
theorem test_mbxTake_empty : (after .mbxTake ready).map (fun t => t.out.resp) = some (.mailbox none) := by decide

/-- CD9b. -/
theorem test_decodes_cable_ignored :
    (after (.decode { p0 := 0x19#8, p1 := 0x94#8, p2 := 0x40#8, p3 := 0x7F#8 }) ready).map (fun t => t.out.resp) =
    some (.decoded { raw := [0x94#8, 0x40#8, 0x7F#8] }) :=
  by decide

/-- CD9d: null. -/
theorem test_decodes_status_in_data :
    (after (.decode { p0 := 0x09#8, p1 := 0x90#8, p2 := 0x80#8, p3 := 0x40#8 }) ready).map (fun t => t.out.resp) =
    some (.decoded { raw := [] }) :=
  by decide

/-- CD0. -/
theorem test_pktCin0_null :
    (after (.pktCin0 0#4 0x90#8 0x40#8 0x7F#8) ready).map (fun t => (t.seq.txPend, t.out.events)) =
    some ([], [.packetNull { p0 := 0x00#8, p1 := 0x90#8, p2 := 0x40#8, p3 := 0x7F#8 }]) :=
  by decide

/-- CD1. -/
theorem test_pktCin1_null :
    (after (.pktCin1 0#4 0xF8#8 0x00#8 0x00#8) ready).map (fun t => (t.seq.txPend, t.out.events)) =
    some ([], [.packetNull { p0 := 0x01#8, p1 := 0xF8#8, p2 := 0x00#8, p3 := 0x00#8 }]) :=
  by decide

/-- CD4. -/
theorem test_pktCin4_null :
    (after (.pktCin4 0#4 0xF0#8 0x01#8 0x02#8) ready).map (fun t => (t.seq.txPend, t.out.events)) =
    some ([], [.packetNull { p0 := 0x04#8, p1 := 0xF0#8, p2 := 0x01#8, p3 := 0x02#8 }]) :=
  by decide

/-- CD6. -/
theorem test_pktCin6_null :
    (after (.pktCin6 0#4 0x01#8 0xF7#8 0x00#8) ready).map (fun t => (t.seq.txPend, t.out.events)) =
    some ([], [.packetNull { p0 := 0x06#8, p1 := 0x01#8, p2 := 0xF7#8, p3 := 0x00#8 }]) :=
  by decide

/-- CD7. -/
theorem test_pktCin7_null :
    (after (.pktCin7 0#4 0x01#8 0x02#8 0xF7#8) ready).map (fun t => (t.seq.txPend, t.out.events)) =
    some ([], [.packetNull { p0 := 0x07#8, p1 := 0x01#8, p2 := 0x02#8, p3 := 0xF7#8 }]) :=
  by decide

/-- CD2c, forwarded. -/
theorem test_pktSys2_forwards :
    (after (.pktSys2 0#4 0xC2#8 0x05#8 0x00#8) ready).map (fun t => (t.seq.txPend, t.out.events)) =
    some ([0xC2#8, 0x05#8], []) :=
  by decide

/-- CD3b, forwarded. -/
theorem test_pktSys3_forwards :
    (after (.pktSys3 0#4 0x90#8 0x40#8 0x7F#8) ready).map (fun t => (t.seq.txPend, t.out.events)) =
    some ([0x90#8, 0x40#8, 0x7F#8], []) :=
  by decide

/-- CD8a. -/
theorem test_pktNoteOff_forwards :
    (after (.pktNoteOff 0#4 0x83#8 0x3C#8 0x40#8) ready).map (fun t => (t.seq.txPend, t.out.events)) =
    some ([0x83#8, 0x3C#8, 0x40#8], []) :=
  by decide

/-- RV4: not normalised. -/
theorem test_pktNoteOn_forwards :
    (after (.pktNoteOn 0#4 0x90#8 0x40#8 0x00#8) ready).map (fun t => (t.seq.txPend, t.out.events)) =
    some ([0x90#8, 0x40#8, 0x00#8], []) :=
  by decide

/-- CDA. -/
theorem test_pktPolyPressure_forwards :
    (after (.pktPolyPressure 0#4 0xA1#8 0x3C#8 0x20#8) ready).map (fun t => (t.seq.txPend, t.out.events)) =
    some ([0xA1#8, 0x3C#8, 0x20#8], []) :=
  by decide

/-- CDB. -/
theorem test_pktControlChange_forwards :
    (after (.pktControlChange 0#4 0xB0#8 0x07#8 0x64#8) ready).map (fun t => (t.seq.txPend, t.out.events)) =
    some ([0xB0#8, 0x07#8, 0x64#8], []) :=
  by decide

/-- CDCa: the padding is ignored. -/
theorem test_pktProgramChange_forwards :
    (after (.pktProgramChange 0#4 0xC2#8 0x05#8 0xFF#8) ready).map (fun t => (t.seq.txPend, t.out.events)) =
    some ([0xC2#8, 0x05#8], []) :=
  by decide

/-- RV4. -/
theorem test_pktPitchBend_forwards :
    (after (.pktPitchBend 0#4 0xE1#8 0x00#8 0x40#8) ready).map (fun t => (t.seq.txPend, t.out.events)) =
    some ([0xE1#8, 0x00#8, 0x40#8], []) :=
  by decide

/-- CDD: channel 15 is disabled by the default map. -/
theorem test_pktChannelPressure_dropped :
    (after (.pktChannelPressure 0#4 0xDF#8 0x7F#8 0x00#8) ready).map (fun t => (t.seq.txPend, t.rtDrop)) =
    some ([], 1#32) :=
  by decide

/-- CD5a: a tune request is routed with no effect (R207). -/
theorem test_pktSys1_not_forwarded :
    (after (.pktSys1 0#4 0xF6#8 0x00#8 0x00#8) ready).map (fun t => (t.seq.txPend, t.out.events)) =
    some ([], []) :=
  by decide

/-- CD5e. -/
theorem test_pktSys1_wrong_length :
    (after (.pktSys1 0#4 0xF1#8 0x00#8 0x00#8) ready).map (fun t => (t.seq.txPend, t.out.events)) =
    some ([], [.packetNull { p0 := 0x05#8, p1 := 0xF1#8, p2 := 0x00#8, p3 := 0x00#8 }]) :=
  by decide

/-- RV4: the clock has no effect. -/
theorem test_pktSingleByte_not_forwarded :
    (after (.pktSingleByte 0#4 0xF8#8 0x00#8 0x00#8) ready).map (fun t => (t.seq.txPend, t.out.events)) =
    some ([], []) :=
  by decide

/-- CDFc. -/
theorem test_pktSingleByte_data_byte :
    (after (.pktSingleByte 0#4 0x40#8 0x00#8 0x00#8) ready).map (fun t => (t.seq.txPend, t.out.events)) =
    some ([], [.packetNull { p0 := 0x0F#8, p1 := 0x40#8, p2 := 0x00#8, p3 := 0x00#8 }]) :=
  by decide

/-- CE5. -/
theorem test_enc_ChannelVoice :
    (after (.encChannelVoice { raw := [0xC2#8, 0x05#8] }) ready).map (fun t => t.out.resp) =
    some (.encoded { p0 := 0x0C#8, p1 := 0xC2#8, p2 := 0x05#8, p3 := 0x00#8 }) :=
  by decide

/-- CE8. -/
theorem test_enc_RealTime :
    (after (.encRealTime 7#3) ready).map (fun t => t.out.resp) =
    some (.encoded { p0 := 0x0F#8, p1 := 0xFF#8, p2 := 0x00#8, p3 := 0x00#8 }) :=
  by decide

/-- CE9. -/
theorem test_enc_SysF0 :
    (after (.encSysF0) ready).map (fun t => t.out.resp) =
    some (.encoded { p0 := 0x05#8, p1 := 0xF0#8, p2 := 0x00#8, p3 := 0x00#8 }) :=
  by decide

/-- CE9. -/
theorem test_enc_SysF6 :
    (after (.encSysF6) ready).map (fun t => t.out.resp) =
    some (.encoded { p0 := 0x05#8, p1 := 0xF6#8, p2 := 0x00#8, p3 := 0x00#8 }) :=
  by decide

/-- CE10. -/
theorem test_enc_SysF1 :
    (after (.encSysF1 0x23#7) ready).map (fun t => t.out.resp) =
    some (.encoded { p0 := 0x02#8, p1 := 0xF1#8, p2 := 0x23#8, p3 := 0x00#8 }) :=
  by decide

/-- CE10. -/
theorem test_enc_SysF3 :
    (after (.encSysF3 7#7) ready).map (fun t => t.out.resp) =
    some (.encoded { p0 := 0x02#8, p1 := 0xF3#8, p2 := 0x07#8, p3 := 0x00#8 }) :=
  by decide

/-- CE11. -/
theorem test_enc_SysF2 :
    (after (.encSysF2 0x10#7 2#7) ready).map (fun t => t.out.resp) =
    some (.encoded { p0 := 0x03#8, p1 := 0xF2#8, p2 := 0x10#8, p3 := 0x02#8 }) :=
  by decide

/-- CE6. -/
theorem test_enc_operation :
    (after (.encode { raw := [0xDF#8, 0x7F#8] }) ready).map (fun t => t.out.resp) =
    some (.encoded { p0 := 0x0D#8, p1 := 0xDF#8, p2 := 0x7F#8, p3 := 0x00#8 }) :=
  by decide

/-- D33. -/
theorem test_encode_null_refused : exec (.encode { raw := [] }) ready = .refused .encodeNull := rfl

/-- RV5's third message: the mirror comes first. -/
theorem test_listener_order :
    (after (.onParserMessage (noteOn 5#8)) { ready with env := { ready.env with hostReady := false } }).map
    (fun t => t.out.events) = some [.hostNotReady (noteOn 5#8), .policyDrop (noteOn 5#8)] :=
  by decide

/-- The example of R201. -/
theorem test_mirror_sends :
    (after (.mirror { raw := [0x80#8, 0x40#8, 0x00#8] }) ready).map (fun t => t.out.hostOut) =
    some [{ p0 := 0x08#8, p1 := 0x80#8, p2 := 0x40#8, p3 := 0x00#8 }] :=
  by decide

/-- RV2. -/
theorem test_route_not_enabled :
    (after (.route (noteOn 2#8)) { ready with chmap := { ready.chmap with enable := #v[true, true, false, true, true] } }).map
    (fun t => (t.seq.txPend, t.rtDrop)) = some ([], 1#32) :=
  by decide

/-- V6 (a). -/
theorem test_route_default_map :
    (after (.route (noteOn 4#8)) ready).map (fun t => t.seq.txPend) = some [0x94#8, 0x40#8, 0x7F#8] :=
  by decide

/-- RV4. -/
theorem test_host_message_not_mirrored :
    (after (.onHostMessage (noteOn 0#8)) ready).map (fun t => (t.seq.txPend, t.out.hostOut, t.mbx.full)) =
    some ([0x90#8, 0x40#8, 0x7F#8], [], false) :=
  by decide

/-- V6 (b). -/
theorem test_policyDrop_counts :
    (after (.policyDrop (noteOn 5#8)) ready).map (fun t => (t.rtDrop, t.link.byteCount, t.out.pulseOut)) =
    some (1#32, 0#32, 0) :=
  by decide

/-- The example of R205. -/
theorem test_forward_rewrites :
    (after (.forward { raw := [0xC0#8, 0x05#8] } 3) ready).map (fun t => t.seq.txPend) = some [0xC3#8, 0x05#8] :=
  by decide

/-- R206. -/
theorem test_pulse_strobes : (after .pulse ready).map (fun t => t.out.pulseOut) = some 1 := by decide

/-- RV7, with the map of R208's example. -/
theorem test_mapReplace_while_inactive :
    (after (.mapReplace #v[0xFF#8, 0#8, 0xFF#8, 0xFF#8, 0xFF#8, 0xFF#8, 0xFF#8, 0xFF#8, 0xFF#8, 0xFF#8, 0xFF#8, 0xFF#8,
      0xFF#8, 0xFF#8, 0xFF#8, 0xFF#8] #v[true, true, true, true, true]) State.reset).map (fun t => t.chmap.map[1]) = some 0#8 :=
  by decide

/-- LV2. -/
theorem test_send_equality_is_enough :
    (after (.send 0x94#8) (linkAt 10000#64 10500#64 [])).map (fun t => (t.link.hwq, t.link.lastUs)) =
    some ([0x94#8], 10500#64) :=
  by decide

/-- LV2. -/
theorem test_send_waits :
    (after (.send 0x94#8) (linkAt 10000#64 10499#64 [])).map (fun t => (t.link.hwq, t.seq.calls)) = some ([], [.send 0x94#8]) :=
  by decide

/-- LV4: with the queue empty at 7000 it returns `SETTLE_US` later. -/
theorem test_flush_waits_the_margin :
    (after .flush (linkAt 0#64 7000#64 [])).map (fun t => (t.seq.calls, t.seq.flushT0, t.out.resp)) =
    some ([.flush], some 7000#64, .none) :=
  by decide

/-- LV3, the instant 2000. -/
theorem test_linkPop_front :
    (after .linkPop (linkAt 0#64 2000#64 [3#8, 4#8])).map (fun t => (t.link.hwq, t.out.linkOut)) = some ([4#8], [3#8]) :=
  by decide

/-- P2: the last byte of a message, with the pulse. -/
theorem test_poll_sends_then_pulses :
    (after .poll (pending [0x50#8] ready)).map (fun t => (t.link.hwq, t.seq.txPend, t.out.pulseOut)) =
    some ([0x50#8], [], 1) :=
  by decide


/-- MV2. -/
theorem test_poll_null_packet :
    (after .poll (hostPhase [{ p0 := 0#8, p1 := 0#8, p2 := 0#8, p3 := 0#8 }])).map
    (fun t => (t.env.hostIn, t.out.events)) = some ([], [.packetNull { p0 := 0#8, p1 := 0#8, p2 := 0#8, p3 := 0#8 }]) :=
  by decide

/-- XV11. -/
theorem test_init_gap :
    (after (.init true (some 250#64)) State.reset).map (fun t => (t.active, t.link.minGapUs)) = some (true, 250#64) :=
  by decide

/-- XV10, with the transport the environment names. -/
theorem test_init_fails :
    (after (.init false (some 500#64)) { State.reset with env := { State.reset.env with failedTransport := .linkPrimitive } }).map
    (fun t => (t.active, t.initFail, t.out.events)) = some (false, true, [.initFailure .linkPrimitive]) :=
  by decide

/-- The table of R260. -/
theorem test_event_codes :
    (Event.ringOverflow 0#8).code = 1 ∧ (Event.ringOverflow 0#8).eventClass = .transientDataLoss ∧
    (Event.mailboxOverwrite (noteOn 0#8)).code = 2 ∧ (Event.mailboxOverwrite (noteOn 0#8)).eventClass = .transientDataLoss ∧
    (Event.hostNotReady (noteOn 0#8)).code = 3 ∧ (Event.hostNotReady (noteOn 0#8)).eventClass = .transientDataLoss ∧
    (Event.strayData 0#8).code = 4 ∧ (Event.strayData 0#8).eventClass = .malformedInput ∧
    (Event.sysexDiscard 0#8).code = 5 ∧ (Event.sysexDiscard 0#8).eventClass = .malformedInput ∧
    (Event.partialAbandoned 0x90#8).code = 6 ∧ (Event.partialAbandoned 0x90#8).eventClass = .malformedInput ∧
    (Event.undefinedStatus 0xF4#8).code = 7 ∧ (Event.undefinedStatus 0xF4#8).eventClass = .malformedInput ∧
    (Event.policyDrop (noteOn 5#8)).code = 8 ∧ (Event.policyDrop (noteOn 5#8)).eventClass = .policyDrop ∧
    (Event.packetNull { p0 := 0#8, p1 := 0#8, p2 := 0#8, p3 := 0#8 }).code = 9 ∧ (Event.packetNull { p0 := 0#8, p1 := 0#8, p2 := 0#8, p3 := 0#8 }).eventClass = .malformedInput ∧
    (Event.initFailure .serialReceiver).code = 10 ∧ (Event.initFailure .serialReceiver).eventClass = .initializationFailure :=
  by decide

/-- RB7: no `PUSH` before `INIT`. -/
theorem test_rx_before_init :
    (stepped (turns [.rx] { State.reset with env := { State.reset.env with serialIn := [0x90#8] } })).map (fun t => t.ring) =
    some State.reset.ring :=
  by decide

/-- P2, the first step of the trace. -/
theorem test_ring_step_decodes :
    (stepped (ringOf [(0, 0x91#8)] 1 0)).map (fun t => (t.parser.rsStatus, t.ring.rd)) = some (0x91#8, 1) :=
  by decide

/-- The ends of the default map (R52). -/
theorem test_reset_map :
    State.reset.chmap.map[4] = 4#8 ∧ State.reset.chmap.map[5] = 0xFF#8 ∧ State.reset.chmap.map[15] = 0xFF#8 :=
  by decide


/-! ### Witnesses: a concrete state and operands that meet the hypotheses of each statement, clause by clause -/

/-- The parser's rows of the invariant, decided field by field. -/
theorem test_inv_parserIdle : ParserInv parserIdle := by constructor <;> decide

theorem test_inv_parserRunning : ParserInv (parserRunning 0xEF#8) := by constructor <;> decide

theorem test_inv_parserOne : ParserInv (parserOne 0xC2#8 1) := by constructor <;> decide

theorem test_inv_parserTwo : ParserInv (parserTwo 0x90#8 0x7F#8) := by constructor <;> decide

theorem test_inv_ringV8 : RingInv ringV8 := by constructor <;> decide

theorem test_inv_ringEmpty : RingInv (ringOf [] 7 7) := by constructor <;> decide

/-- A state in the middle of a message, with bytes in the ring, an unread message, a queue and a pending forward. -/
def busy : State :=
  pending [0x40#8, 0x7F#8]
    { ringOf [(1, 0x40#8)] 2 1 with
      parser := parserTwo 0x90#8 0x40#8
      mbx := { full := true, msg := noteOn 0#8 }
      link := { ready.link with lastUs := 500#64, lastValid := true, byteCount := 2#32, hwq := [0x91#8] }
      env := { ready.env with now := 1000#64 }
      out := { ready.out with linkOut := [0x90#8], sent := [(0#64, 0x90#8), (500#64, 0x91#8)] } }

/-- `busy` with one drop of each kind behind it. -/
def lossy : State :=
  { busy with
    ring := { busy.ring with overflow := 1#32 }
    rtDrop := 1#32
    out := { busy.out with events := [.ringOverflow 0#8, .policyDrop (noteOn 9#8)] } }

/-- A `FLUSH` that saw the queue empty at `t0`, at the instant `now`. -/
def flushing (t0 now : Time) : State :=
  let s := calling [.flush] (linkAt 0#64 now [])
  { s with seq := { s.seq with flushT0 := some t0 } }

theorem test_hyp_DecodeUndoesEncode :
    (Instr.inBlockStatus 0x76#7).wf = true ∧ rowSelected ctxBlock (.inBlockStatus 0x76#7) = true ∧
    encode (.inBlockStatus 0x76#7) = some (.stream, [0xF6#8]) ∧
    (Instr.pktCin0 15#4 0xFF#8 0#8 0#8).wf = true ∧ rowSelected ctxIdle (.pktCin0 15#4 0xFF#8 0#8 0#8) = true ∧
    encode (.pktCin0 15#4 0xFF#8 0#8 0#8) = some (.packet, [0xF0#8, 0xFF#8, 0#8, 0#8]) ∧ Format.packet ≠ .encoder ∧
    (Instr.encSysF1 127#7).wf = true ∧ rowSelected ctxIdle (.encSysF1 127#7) = true ∧
    encode (.encSysF1 127#7) = some (.encoder, [0xF1#8, 0x7F#8]) :=
  by decide

theorem test_hyp_EveryWordSelectsOneRow :
    (Instr.sysexEnd).wf = true ∧ rowSelected ctxBlock .sysexEnd = true ∧ encode .sysexEnd = some (.stream, [0xF7#8]) ∧
    encode (.pktSingleByte 0#4 0xF8#8 0#8 0#8) = some (.packet, [0x0F#8, 0xF8#8, 0#8, 0#8]) ∧
    msgOk (noteOn 0#8) = true ∧ msgOk { raw := [0xF5#8] } = false :=
  by decide

theorem test_hyp_StepRunsTheDecodedWord :
    (ringOf [] 0 7).env.sched = [] ∧ pollFree (ringOf [] 0 7) = true ∧ (ringOf [] 0 7).seq.phase = .ring ∧
    (ringOf [] 0 7).ring.wr ≠ (ringOf [] 0 7).ring.rd ∧
    pollFree (hostPhase [{ p0 := 0#8, p1 := 0#8, p2 := 0#8, p3 := 0#8 }]) = true ∧
    (hostPhase [{ p0 := 0#8, p1 := 0#8, p2 := 0#8, p3 := 0#8 }]).env.hostIn = { p0 := 0#8, p1 := 0#8, p2 := 0#8, p3 := 0#8 } :: [] ∧
    (hostPhase [{ p0 := 0#8, p1 := 0#8, p2 := 0#8, p3 := 0#8 }]).seq.phase = .host ∧
    (pollFree (ringOf [] 7 7) = true ∧ (ringOf [] 7 7).seq.phase = .ring ∧ (ringOf [] 7 7).ring.wr = (ringOf [] 7 7).ring.rd) ∧
    (pollFree (hostPhase []) = true ∧ (hostPhase []).seq.phase = .host ∧ (hostPhase []).env.hostIn = []) ∧
    State.reset.env.sched = [] ∧
    pollFree State.reset = false :=
  by decide

theorem test_hyp_StepTakesTheScheduledTurn :
    (turns [.poll] ready).env.sched = .poll :: [] ∧ (turns [.run .linkPop] ready).env.sched = .run .linkPop :: [] ∧
    (turns [.init none] ready).env.sched = .init none :: [] ∧
    ((turns [.rx] ready).env.sched = .rx :: [] ∧ (turns [.rx] ready).env.serialIn = []) ∧
    ((turns [.rx] { ready with env := { ready.env with serialIn := [0#8] } }).env.sched = .rx :: [] ∧
      (turns [.rx] { ready with env := { ready.env with serialIn := [0#8] } }).env.serialIn = 0#8 :: []) ∧
    ((turns [.advance 0xFFFFFFFFFFFFFFFF#64] ready).env.sched = .advance 0xFFFFFFFFFFFFFFFF#64 :: [] ∧
      ready.env.now.toNat + (0xFFFFFFFFFFFFFFFF#64).toNat < 2 ^ 64) ∧
    ((turns [.advance 0xFFFFFFFFFFFFFFFF#64] (linkAt 0#64 1#64 [])).env.sched = .advance 0xFFFFFFFFFFFFFFFF#64 :: [] ∧
      2 ^ 64 ≤ (linkAt 0#64 1#64 []).env.now.toNat + (0xFFFFFFFFFFFFFFFF#64).toNat) ∧
    (turns [.hostArrive { p0 := 0#8, p1 := 0#8, p2 := 0#8, p3 := 0#8 }] ready).env.sched =
      .hostArrive { p0 := 0#8, p1 := 0#8, p2 := 0#8, p3 := 0#8 } :: [] ∧
    (turns [.hostReady false] ready).env.sched = .hostReady false :: [] ∧
    (turns [.serialArrive 0#8] ready).env.sched = .serialArrive 0#8 :: [] ∧
    (turns [.transportOk true] ready).env.sched = .transportOk true :: [] ∧
    (turns [.transportFailed .hostBusStack] ready).env.sched = .transportFailed .hostBusStack :: [] :=
  by decide

theorem test_hyp_TimeNeverGoesBack :
    (∃ t, step (turns [.advance 1#64] ready) = .next t) ∧ ∃ t, exec .pulse ready = .next t :=
  ⟨⟨_, rfl⟩, ⟨_, rfl⟩⟩

theorem test_hyp_ResetValues :
    (∃ t, exec (.init true none) (State.resetWith Config.vectors) = .next t) ∧
    ∃ t, exec .linkPop (State.resetWith Config.vectors) = .next t :=
  ⟨⟨_, rfl⟩, ⟨_, rfl⟩⟩

/-- The lowest legal parameters. -/
theorem test_hyp_ResetMeetsInvariants :
    Config.wf { rbLog := 1, hwqDepth := 1, settleUs := 0, sysexAborts := true } = true :=
  by decide

theorem test_hyp_StepKeepsStateInv :
    StateInv busy ∧ ∃ t, step busy = .next t :=
  ⟨⟨by decide, by constructor <;> decide, by constructor <;> decide, by decide, by decide, by decide, by decide⟩, ⟨_, rfl⟩⟩

theorem test_hyp_StepKeepsLinkInv :
    LinkInv busy ∧ ∃ t, step (turns [.run .linkPop] busy) = .next t :=
  ⟨⟨by decide, by decide⟩, ⟨_, rfl⟩⟩

theorem test_hyp_StepKeepsPacingInv :
    PacingInv busy ∧ ∃ t, step busy = .next t :=
  ⟨by constructor <;> simp [busy, pending, ringOf, ready, State.reset, State.resetWith, minGapDefault, BitVec.le_def], ⟨_, rfl⟩⟩

theorem test_hyp_StepKeepsCounterInv :
    CounterInv lossy ∧ ∃ t, step lossy = .next t :=
  ⟨⟨by decide, by decide⟩, ⟨_, rfl⟩⟩

theorem test_hyp_SendsSpanTheGaps :
    PacingInv busy ∧ busy.out.sent.head? = some (0#64, 0x90#8) ∧ busy.out.sent.getLast? = some (500#64, 0x91#8) :=
  ⟨test_hyp_StepKeepsPacingInv.1, rfl, rfl⟩

/-- The full ring, and an empty one whose write index wraps. -/
theorem test_hyp_PushStoresOrCounts :
    (RingInv ringV8 ∧ ringV8.active = true ∧ (ringV8.ring.wr + 1) % 2 ^ ringV8.config.rbLog = ringV8.ring.rd) ∧
    RingInv (ringOf [] 7 7) ∧ (ringOf [] 7 7).active = true ∧
      ((ringOf [] 7 7).ring.wr + 1) % 2 ^ (ringOf [] 7 7).config.rbLog ≠ (ringOf [] 7 7).ring.rd :=
  ⟨⟨test_inv_ringV8, by decide, by decide⟩, test_inv_ringEmpty, by decide, by decide⟩

theorem test_hyp_PopTakesTheOldest :
    (pollFree (ringOf [] 7 7) = true ∧ (ringOf [] 7 7).ring.rd = (ringOf [] 7 7).ring.wr) ∧
    pollFree ringV8 = true ∧ ringV8.ring.rd ≠ ringV8.ring.wr :=
  by decide

/-- Full and empty; the last held byte. -/
theorem test_hyp_RingFullOneBelowCapacity :
    RingInv ringV8 ∧ RingInv (ringOf [] 7 7) ∧ 6 < (ringHeld ringV8).length :=
  ⟨test_inv_ringV8, test_inv_ringEmpty, by decide⟩

theorem test_hyp_RingIsFifo :
    (RingInv (ringOf [] 7 7) ∧ (ringOf [] 7 7).active = true ∧ ringFull (ringOf [] 7 7) = false) ∧
    (RingInv ringV8 ∧ ringV8.active = true ∧ ringFull ringV8 = true) ∧ pollFree ringV8 = true ∧ ringEmpty ringV8 = false :=
  ⟨⟨test_inv_ringEmpty, by decide, by decide⟩, ⟨test_inv_ringV8, by decide, by decide⟩, by decide, by decide⟩

theorem test_hyp_FullRingKeepsOrder :
    RingInv (ringOf [] 7 7) ∧ pollFree (ringOf [] 7 7) = true ∧ ringEmpty (ringOf [] 7 7) = true ∧
    ([1#8, 2#8, 3#8, 4#8, 5#8, 6#8, 7#8] : List Byte).length = 2 ^ (ringOf [] 7 7).config.rbLog - 1 ∧
    6 < ([1#8, 2#8, 3#8, 4#8, 5#8, 6#8, 7#8] : List Byte).length :=
  ⟨test_inv_ringEmpty, by decide, by decide, by decide, by decide⟩

theorem test_hyp_OnlyOwnersWrite :
    (∃ t, exec (.push 0#8) ringV8 = .next t) ∧ (∃ t, exec (.mapReplace chmapDefault.map chmapDefault.enable) ready = .next t) ∧
    (∃ t, exec (.init true none) State.reset = .next t) ∧ (∃ t, exec .linkPop busy = .next t) ∧ ∃ t, exec .poll busy = .next t :=
  ⟨⟨_, rfl⟩, ⟨_, rfl⟩, ⟨_, rfl⟩, ⟨_, rfl⟩, ⟨_, rfl⟩⟩

theorem test_hyp_StreamAndPacketFrames :
    (encode (.rtF8) = some (.stream, [0xF8#8]) ∧ Format.stream ≠ .encoder ∧ ∃ t, exec .rtF8 ready = .next t) ∧
    encode (.pktNoteOn 0#4 0x90#8 0x40#8 0x7F#8) = some (.packet, [0x09#8, 0x90#8, 0x40#8, 0x7F#8]) ∧ Format.packet ≠ .encoder ∧
    ∃ t, exec (.pktNoteOn 0#4 0x90#8 0x40#8 0x7F#8) ready = .next t :=
  ⟨⟨by decide, by decide, ⟨_, rfl⟩⟩, by decide, by decide, ⟨_, rfl⟩⟩

/-- The least entry value that is no internal-channel id. -/
theorem test_hyp_MapReplaceSwapsWhole :
    msgIsVoice (noteOn 15#8) = true ∧ pollFree ready = true ∧
    nInt ≤ ((Vector.replicate 16 0x05#8)[(loNibble (msgStatus (noteOn 15#8))).toNat]).toNat :=
  by decide

theorem test_hyp_InitActivatesOrFails : State.reset.active = false ∧ State.reset.initFail = false := by decide

theorem test_hyp_InactiveBlockStaysStill :
    State.reset.active = false ∧ (∃ t, exec (.push 0x90#8) State.reset = .next t) ∧ (Instr.push 0x90#8).wf = true :=
  ⟨rfl, ⟨_, rfl⟩, rfl⟩

theorem test_hyp_InitHappensOnce :
    ready.active = true ∧ { State.reset with initFail := true }.initFail = true ∧
    { State.reset with initFail := true }.active = false ∧
    ∃ t, step (turns [.rx] { State.reset with initFail := true }) = .next t :=
  ⟨rfl, rfl, rfl, ⟨_, rfl⟩⟩

/-- In the middle of a message, which is abandoned. -/
theorem test_hyp_VoiceStatusBecomesRunningStatus :
    (Instr.pitchBendStatus 15#4, 0xEF#8, 2) ∈ ([(.noteOffStatus 15#4, joinNibbles 0x8#4 15#4, 2),
      (.noteOnStatus 15#4, joinNibbles 0x9#4 15#4, 2), (.polyPressureStatus 15#4, joinNibbles 0xA#4 15#4, 2),
      (.controlChangeStatus 15#4, joinNibbles 0xB#4 15#4, 2), (.programChangeStatus 15#4, joinNibbles 0xC#4 15#4, 1),
      (.channelPressureStatus 15#4, joinNibbles 0xD#4 15#4, 1), (.pitchBendStatus 15#4, joinNibbles 0xE#4 15#4, 2)] :
      List (Instr × Byte × Nat)) ∧ pollFree (parsing (parserTwo 0x90#8 0x40#8)) = true ∧
    (parsing (parserTwo 0x90#8 0x40#8)).parser.st ≠ .ignoringSystemBlock :=
  by decide

theorem test_hyp_SystemStatusClearsRunningStatus :
    pollFree (parsing (parserTwo 0x90#8 0x40#8)) = true ∧ (parsing (parserTwo 0x90#8 0x40#8)).parser.st ≠ .ignoringSystemBlock ∧
    (Instr.sysF3, 0xF3#8, 1) ∈ ([(.sysF1, 0xF1#8, 1), (.sysF2, 0xF2#8, 2), (.sysF3, 0xF3#8, 1)] : List (Instr × Byte × Nat)) ∧
    (Instr.strayF7, 0xF7#8) ∈ ([(.undefF4, 0xF4#8), (.undefF5, 0xF5#8), (.strayF7, 0xF7#8)] : List (Instr × Byte)) :=
  by decide

theorem test_hyp_TuneRequestCompletes :
    pollFree (parsing (parserOne 0x90#8 2)) = true ∧ (parsing (parserOne 0x90#8 2)).parser.st ≠ .ignoringSystemBlock :=
  by decide

/-- Inside a system block. -/
theorem test_hyp_RealTimeDeliversAtOnce :
    (Instr.rtFF, 0xFF#8) ∈ ([(.rtF8, 0xF8#8), (.rtF9, 0xF9#8), (.rtFA, 0xFA#8), (.rtFB, 0xFB#8), (.rtFC, 0xFC#8),
      (.rtFD, 0xFD#8), (.rtFE, 0xFE#8), (.rtFF, 0xFF#8)] : List (Instr × Byte)) ∧ pollFree (parsing parserBlock) = true :=
  by decide

/-- The boundary bytes F7, F6, 80 and 7F. -/
theorem test_hyp_BlockBytesAreDiscarded :
    ((parsing parserBlock).parser.st = .ignoringSystemBlock ∧ pollFree (parsing parserBlock) = true ∧ 0xF7#8 < 0xF8#8 ∧
      encode .sysexEnd = some (.stream, [0xF7#8]) ∧ rowSelected (decodeCtx (parsing parserBlock)) .sysexEnd = true) ∧
    (aborting.parser.st = .ignoringSystemBlock ∧ pollFree aborting = true ∧ 0xF6#8 < 0xF8#8 ∧ 0xF6#8 ≠ 0xF7#8 ∧ 0x80#8 ≤ 0xF6#8 ∧
      aborting.config.sysexAborts = true ∧ encode .tuneRequest = some (.stream, [0xF6#8]) ∧
      rowSelected (decodeCtx aborting) .tuneRequest = true) ∧
    0x80#8 < 0xF8#8 ∧ 0x80#8 ≠ 0xF7#8 ∧ (parsing parserBlock).config.sysexAborts = false ∧
    encode (.inBlockStatus 0#7) = some (.stream, [0x80#8]) ∧
    rowSelected (decodeCtx (parsing parserBlock)) (.inBlockStatus 0#7) = true ∧
    0x7F#8 ≠ 0xF7#8 ∧ 0x7F#8 < 0x80#8 :=
  by decide

theorem test_hyp_DataByteResumes :
    pollFree (parsing (parserRunning 0xEF#8)) = true ∧ (parsing (parserRunning 0xEF#8)).parser.st = .idle ∧
    (parsing (parserRunning 0xEF#8)).parser.rsValid = true ∧ nd (parsing (parserRunning 0xEF#8)).parser.rsStatus = some 2 :=
  by decide

theorem test_hyp_DataByteFirst :
    (pollFree (parsing (parserOne 0xC2#8 1)) = true ∧ (parsing (parserOne 0xC2#8 1)).parser.st = .collectingData1 ∧
      ParserInv (parserOne 0xC2#8 1) ∧ (parserOne 0xC2#8 1).accNeed = 1) ∧
    pollFree (parsing (parserSystem 0xF2#8 2)) = true ∧ (parsing (parserSystem 0xF2#8 2)).parser.st = .collectingData1 ∧
    ParserInv (parserSystem 0xF2#8 2) ∧ (parserSystem 0xF2#8 2).accNeed ≠ 1 :=
  ⟨⟨by decide, by decide, test_inv_parserOne, by decide⟩, by decide, by decide, by constructor <;> decide, by decide⟩

/-- A note-on, which the value 0 normalises and every other does not. -/
theorem test_hyp_DataByteSecond :
    pollFree (parsing (parserTwo 0x90#8 0x7F#8)) = true ∧ (parsing (parserTwo 0x90#8 0x7F#8)).parser.st = .collectingData2 ∧
    ParserInv (parserTwo 0x90#8 0x7F#8) ∧ hiNibble (parserTwo 0x90#8 0x7F#8).accRaw[0] = 0x9#4 :=
  ⟨by decide, by decide, test_inv_parserTwo, by decide⟩

theorem test_hyp_StrayDataIsDiscarded :
    pollFree ready = true ∧ ready.parser.st = .idle ∧ ready.parser.rsValid = false :=
  by decide

/-- Two rows that `ready` does not select. -/
theorem test_hyp_ParseRunsItsRow :
    encode .strayF7 = some (.stream, [0xF7#8]) ∧ encode (.dataSecond 127#7) = some (.stream, [0x7F#8]) ∧ pollFree ready = true :=
  by decide

theorem test_hyp_RunningStatusExpands :
    pollFree (parsing (parserRunning 0xEF#8)) = true ∧ ParserInv (parsing (parserRunning 0xEF#8)).parser ∧
    (parsing (parserRunning 0xEF#8)).parser.st = .idle ∧ (parsing (parserRunning 0xEF#8)).parser.rsValid = true :=
  ⟨by decide, test_inv_parserRunning, by decide, by decide⟩

theorem test_hyp_ResyncExplicitMessage :
    pollFree (parsing (parserTwo 0x90#8 0x40#8)) = true ∧ (parsing (parserTwo 0x90#8 0x40#8)).parser.st ≠ .ignoringSystemBlock ∧
    isChannelVoice 0xEF#8 = true ∧ nd 0xEF#8 = some ([127#7, 0#7] : List Data7).length ∧
    nd 0xF3#8 = some ([127#7] : List Data7).length ∧ (parsing (parserTwo 0x90#8 0x40#8)).env.hostReady = true :=
  by decide

theorem test_hyp_SysexIsOpaque :
    pollFree ready = true ∧ ready.parser.st ≠ .ignoringSystemBlock ∧
    ∀ b ∈ ([0x00#8, 0x7F#8, 0x80#8, 0xF6#8] : List Byte), b < 0x80#8 ∨ (ready.config.sysexAborts = false ∧ b < 0xF7#8) :=
  by decide

theorem test_hyp_DeliverLatestWins :
    pollFree { ready with mbx := { full := true, msg := noteOn 0#8 } } = true ∧ msgOk { raw := [0xF8#8] } = true :=
  by decide

theorem test_hyp_ListenerMirrorsThenRoutes : pollFree ready = true ∧ msgOk (noteOn 15#8) = true := by decide

theorem test_hyp_MirrorSendsOrDrops :
    (pollFree ready = true ∧ ready.env.hostReady = true) ∧ msgOk { raw := [0xF2#8, 0x10#8, 0x02#8] } = true ∧
    pollFree { ready with env := { ready.env with hostReady := false } } = true ∧
    { ready with env := { ready.env with hostReady := false } }.env.hostReady = false :=
  by decide

/-- The last mapped channel, the first disabled one, and an id that is not enabled. -/
theorem test_hyp_RouteByMap :
    pollFree ready = true ∧ (msgOk { raw := [0xF8#8] } = true ∧ isChannelVoice (msgStatus { raw := [0xF8#8] }) = false) ∧
    (msgOk (noteOn 4#8) = true ∧ isChannelVoice (msgStatus (noteOn 4#8)) = true ∧
      (ready.chmap.map[(loNibble (msgStatus (noteOn 4#8))).toNat]).toNat < nInt ∧
      ready.chmap.enable[(4 : Fin nInt)] = true) ∧
    (msgOk (noteOn 5#8) = true ∧ isChannelVoice (msgStatus (noteOn 5#8)) = true ∧
      ¬(ready.chmap.map[(loNibble (msgStatus (noteOn 5#8))).toNat]).toNat < nInt) ∧
    pollFree { ready with chmap := { ready.chmap with enable := #v[true, true, true, true, false] } } = true ∧
    (chmapDefault.map[(loNibble (msgStatus (noteOn 4#8))).toNat]).toNat < nInt ∧
    { ready with chmap := { ready.chmap with enable := #v[true, true, true, true, false] } }.chmap.enable[(4 : Fin nInt)] = false :=
  by decide

theorem test_hyp_HostMessageIsRoutedOnly : pollFree (hostPhase []) = true ∧ msgOk (noteOn 0#8) = true := by decide

theorem test_hyp_PolicyDropCounts : pollFree ready = true ∧ msgIsVoice { raw := [0xDF#8, 0x7F#8] } = true := by decide

theorem test_hyp_ForwardRewritesTheNibble :
    pollFree ready = true ∧ msgIsVoice { raw := [0xEF#8, 0x7F#8, 0x7F#8] } = true :=
  by decide

/-- Three bytes fill the queue exactly. -/
theorem test_hyp_ForwardIsSentWhole :
    (pending [1#8, 2#8, 3#8] { linkAt 5#64 5#64 [9#8] with link := { (linkAt 5#64 5#64 [9#8]).link with minGapUs := 0#64 } }).active = true ∧
    (pending [1#8, 2#8, 3#8] { linkAt 5#64 5#64 [9#8] with link := { (linkAt 5#64 5#64 [9#8]).link with minGapUs := 0#64 } }).seq.txPend ≠ [] ∧
    (pending [1#8, 2#8, 3#8] { linkAt 5#64 5#64 [9#8] with link := { (linkAt 5#64 5#64 [9#8]).link with minGapUs := 0#64 } }).link.minGapUs =
      0#64 ∧ [9#8].length + [1#8, 2#8, 3#8].length ≤ (linkAt 5#64 5#64 [9#8]).config.hwqDepth :=
  by decide

theorem test_hyp_PulseCounts : pollFree ready = true := by decide

theorem test_hyp_MailboxTake :
    (pollFree { ready with mbx := { full := true, msg := noteOn 0#8 } } = true ∧
      { ready with mbx := { full := true, msg := noteOn 0#8 } }.mbx.full = true) ∧
    (pollFree ready = true ∧ ready.mbx.full = false) ∧
    (calling [.mbxTake, .flush] ready).active = true ∧ (calling [.mbxTake, .flush] ready).seq.txPend = [] ∧
    (calling [.mbxTake, .flush] ready).seq.calls = .mbxTake :: [.flush] :=
  by decide

theorem test_hyp_MailboxHasNoEffect :
    SameButMailbox ready { ready with mbx := { full := true, msg := noteOn 0#8 } } ∧
    ready ≠ { ready with mbx := { full := true, msg := noteOn 0#8 } } :=
  ⟨by constructor <;> rfl, by decide⟩

/-- The largest data values, and a data position that holds 80. -/
theorem test_hyp_DecodeIsMessageOrNull :
    pollFree ready = true ∧
    (3 = cinLen (packetCin { p0 := 0x3E#8, p1 := 0xEF#8, p2 := 0x7F#8, p3 := 0x7F#8 }) ∧ 0x80#8 ≤ 0xEF#8 ∧ lenOf 0xEF#8 = some 3 ∧
      0x7F#8 < 0x80#8) ∧
    3 = cinLen (packetCin { p0 := 0x09#8, p1 := 0x90#8, p2 := 0x80#8, p3 := 0x40#8 }) ∧
    ¬(3 ≠ 0 ∧ 0x80#8 ≤ 0x90#8 ∧ lenOf 0x90#8 = some 3 ∧ (3 < 2 ∨ 0x80#8 < 0x80#8) ∧ (3 < 3 ∨ 0x40#8 < 0x80#8)) :=
  by decide

/-- The last row, with padding that is ignored. -/
theorem test_hyp_PacketRowsRoute :
    pollFree ready = true ∧
    (Instr.pktSingleByte 15#4 0xFF#8 0x80#8 0x80#8, 0xF#4, 1) ∈ ([(.pktCin0 15#4 0xFF#8 0x80#8 0x80#8, 0x0#4, 0), (.pktCin1 15#4 0xFF#8 0x80#8 0x80#8, 0x1#4, 0),
      (.pktSys2 15#4 0xFF#8 0x80#8 0x80#8, 0x2#4, 2), (.pktSys3 15#4 0xFF#8 0x80#8 0x80#8, 0x3#4, 3),
      (.pktCin4 15#4 0xFF#8 0x80#8 0x80#8, 0x4#4, 0), (.pktSys1 15#4 0xFF#8 0x80#8 0x80#8, 0x5#4, 1),
      (.pktCin6 15#4 0xFF#8 0x80#8 0x80#8, 0x6#4, 0), (.pktCin7 15#4 0xFF#8 0x80#8 0x80#8, 0x7#4, 0),
      (.pktNoteOff 15#4 0xFF#8 0x80#8 0x80#8, 0x8#4, 3), (.pktNoteOn 15#4 0xFF#8 0x80#8 0x80#8, 0x9#4, 3),
      (.pktPolyPressure 15#4 0xFF#8 0x80#8 0x80#8, 0xA#4, 3),
      (.pktControlChange 15#4 0xFF#8 0x80#8 0x80#8, 0xB#4, 3),
      (.pktProgramChange 15#4 0xFF#8 0x80#8 0x80#8, 0xC#4, 2),
      (.pktChannelPressure 15#4 0xFF#8 0x80#8 0x80#8, 0xD#4, 2),
      (.pktPitchBend 15#4 0xFF#8 0x80#8 0x80#8, 0xE#4, 3),
      (.pktSingleByte 15#4 0xFF#8 0x80#8 0x80#8, 0xF#4, 1)] :
      List (Instr × Nibble × Nat)) ∧
    msgOk { raw := [0xFF#8, 0x80#8, 0x80#8].take 1 } = true :=
  by decide

/-- The first row, whose code is not recognised. -/
theorem test_hyp_PacketRowsRoute_null :
    pollFree ready = true ∧
    (Instr.pktCin0 0#4 0x90#8 0x40#8 0x7F#8, 0x0#4, 0) ∈ ([(.pktCin0 0#4 0x90#8 0x40#8 0x7F#8, 0x0#4, 0), (.pktCin1 0#4 0x90#8 0x40#8 0x7F#8, 0x1#4, 0),
      (.pktSys2 0#4 0x90#8 0x40#8 0x7F#8, 0x2#4, 2), (.pktSys3 0#4 0x90#8 0x40#8 0x7F#8, 0x3#4, 3),
      (.pktCin4 0#4 0x90#8 0x40#8 0x7F#8, 0x4#4, 0), (.pktSys1 0#4 0x90#8 0x40#8 0x7F#8, 0x5#4, 1),
      (.pktCin6 0#4 0x90#8 0x40#8 0x7F#8, 0x6#4, 0), (.pktCin7 0#4 0x90#8 0x40#8 0x7F#8, 0x7#4, 0),
      (.pktNoteOff 0#4 0x90#8 0x40#8 0x7F#8, 0x8#4, 3), (.pktNoteOn 0#4 0x90#8 0x40#8 0x7F#8, 0x9#4, 3),
      (.pktPolyPressure 0#4 0x90#8 0x40#8 0x7F#8, 0xA#4, 3),
      (.pktControlChange 0#4 0x90#8 0x40#8 0x7F#8, 0xB#4, 3),
      (.pktProgramChange 0#4 0x90#8 0x40#8 0x7F#8, 0xC#4, 2),
      (.pktChannelPressure 0#4 0x90#8 0x40#8 0x7F#8, 0xD#4, 2),
      (.pktPitchBend 0#4 0x90#8 0x40#8 0x7F#8, 0xE#4, 3), (.pktSingleByte 0#4 0x90#8 0x40#8 0x7F#8, 0xF#4, 1)] :
      List (Instr × Nibble × Nat)) ∧
    msgOk { raw := [0x90#8, 0x40#8, 0x7F#8].take 0 } = false :=
  by decide

theorem test_hyp_EncoderRows :
    pollFree ready = true ∧ (Instr.encChannelVoice (noteOn 15#8)).wf = true ∧
    (Instr.encChannelVoice (noteOn 15#8), noteOn 15#8, 0x9#4) ∈ ([(.encChannelVoice (noteOn 15#8), noteOn 15#8, hiNibble (msgStatus (noteOn 15#8))),
      (.encRealTime 7#3, { raw := [realTimeByte 7#3] }, 0xF#4), (.encSysF0, { raw := [0xF0#8] }, 0x5#4),
      (.encSysF6, { raw := [0xF6#8] }, 0x5#4), (.encSysF1 0#7, { raw := [0xF1#8, dataByte 0#7] }, 0x2#4),
      (.encSysF3 0#7, { raw := [0xF3#8, dataByte 0#7] }, 0x2#4),
      (.encSysF2 127#7 0#7, { raw := [0xF2#8, dataByte 127#7, dataByte 0#7] }, 0x3#4)] : List (Instr × Message × Nibble)) :=
  by decide

theorem test_hyp_EncoderRows_system :
    pollFree ready = true ∧ (Instr.encSysF2 127#7 0#7).wf = true ∧
    (Instr.encSysF2 127#7 0#7, { raw := [0xF2#8, 0x7F#8, 0x00#8] }, 0x3#4) ∈ ([(.encChannelVoice (noteOn 15#8), noteOn 15#8, hiNibble (msgStatus (noteOn 15#8))),
      (.encRealTime 7#3, { raw := [realTimeByte 7#3] }, 0xF#4), (.encSysF0, { raw := [0xF0#8] }, 0x5#4),
      (.encSysF6, { raw := [0xF6#8] }, 0x5#4), (.encSysF1 0#7, { raw := [0xF1#8, dataByte 0#7] }, 0x2#4),
      (.encSysF3 0#7, { raw := [0xF3#8, dataByte 0#7] }, 0x2#4),
      (.encSysF2 127#7 0#7, { raw := [0xF2#8, dataByte 127#7, dataByte 0#7] }, 0x3#4)] : List (Instr × Message × Nibble)) :=
  by decide

theorem test_hyp_RoundTripThroughTheCodec :
    pollFree ready = true ∧ msgOk { raw := [0xEF#8, 0x7F#8, 0x7F#8] } = true ∧ msgOk { raw := [0xF0#8] } = true :=
  by decide

theorem test_hyp_NonMessagesAreRefused :
    msgOk { raw := [] } = false ∧ msgOk { raw := [0x90#8, 0x40#8] } = false ∧ msgIsVoice { raw := [0xF0#8] } = false :=
  by decide

/-- The gap just elapsed and one microsecond short; the queue with one place, and full. -/
theorem test_hyp_SendEnqueuesOrWaits :
    (pollFree (linkAt 10000#64 10500#64 [1#8, 2#8, 3#8]) = true ∧
      (linkAt 10000#64 10500#64 [1#8, 2#8, 3#8]).link.minGapUs ≤ 10500#64 - 10000#64 ∧
      (linkAt 10000#64 10500#64 [1#8, 2#8, 3#8]).link.hwq.length < ready.config.hwqDepth) ∧
    (pollFree (linkAt 10000#64 10499#64 []) = true ∧ (linkAt 10000#64 10499#64 []).link.lastValid = true ∧
      ¬(linkAt 10000#64 10499#64 []).link.minGapUs ≤ 10499#64 - 10000#64) ∧
    (calling [.send 0#8, .drain] (linkAt 10000#64 10500#64 [])).active = true ∧
    (calling [.send 0#8, .drain] (linkAt 10000#64 10500#64 [])).seq.txPend = [] ∧
    (calling [.send 0#8, .drain] (linkAt 10000#64 10500#64 [])).seq.calls = .send 0#8 :: [.drain] ∧
    (calling [.send 0#8, .drain] (linkAt 10000#64 10499#64 [])).seq.calls = .send 0#8 :: [.drain] ∧
    ¬[1#8, 2#8, 3#8, 4#8].length < ready.config.hwqDepth :=
  by decide

theorem test_hyp_PendingForwardSendsItsFront :
    ((pending [1#8] (linkAt 10000#64 10500#64 [])).active = true ∧
      (pending [1#8] (linkAt 10000#64 10500#64 [])).seq.txPend = 1#8 :: [] ∧
      (linkAt 10000#64 10500#64 []).link.minGapUs ≤ 10500#64 - 10000#64 ∧ ([] : List Byte).length < ready.config.hwqDepth) ∧
    (pending [1#8, 2#8] (linkAt 10000#64 10499#64 [])).seq.txPend = 1#8 :: [2#8] ∧
    (linkAt 10000#64 10499#64 []).link.lastValid = true ∧ ¬(linkAt 10000#64 10499#64 []).link.minGapUs ≤ 10499#64 - 10000#64 :=
  by decide

theorem test_hyp_BusyPollTakesNoOtherStep :
    isPollStep (.parse 0x90#8) = true ∧ (Instr.parse 0x90#8).wf = true ∧ pollFree (pending [1#8] ready) = false ∧
    pollFree (calling [.flush] ready) = false ∧ pollFree State.reset = false ∧
    (Instr.send 0#8, Call.send 0#8) ∈
      ([(.drain, .drain), (.mbxTake, .mbxTake), (.flush, .flush), (.send 0#8, .send 0#8)] : List (Instr × Call)) ∧
    (pending [1#8] ready).active = true :=
  by decide

theorem test_hyp_LinkPopTakesTheFront :
    ((linkAt 0#64 0#64 [1#8]).active = true ∧ (linkAt 0#64 0#64 [1#8]).link.hwq = 1#8 :: []) ∧ ready.active = true ∧ ready.link.hwq = [] :=
  by decide

/-- The margin just passed, and one microsecond short. -/
theorem test_hyp_FlushWaitsAndReturns :
    (pollFree (linkAt 0#64 7000#64 [1#8]) = true ∧ (linkAt 0#64 7000#64 [1#8]).link.hwq ≠ []) ∧
    (pollFree { ready with config := { Config.vectors with settleUs := 0 } } = true ∧
      { ready with config := { Config.vectors with settleUs := 0 } }.config.settleUs = 0 ∧ ready.link.hwq = []) ∧
    (pollFree ready = true ∧ ready.config.settleUs ≠ 0) ∧
    (calling [.flush] (linkAt 0#64 8000#64 [])).active = true ∧ (calling [.flush] (linkAt 0#64 8000#64 [])).seq.txPend = [] ∧
    (calling [.flush] (linkAt 0#64 8000#64 [])).seq.calls = .flush :: [] ∧
    (calling [.flush] (linkAt 0#64 8000#64 [])).seq.flushT0 = none ∧
    ((flushing 7000#64 8000#64).active = true ∧ (flushing 7000#64 8000#64).seq.txPend = [] ∧
      (flushing 7000#64 8000#64).seq.calls = .flush :: [] ∧ (flushing 7000#64 8000#64).seq.flushT0 = some 7000#64 ∧
      (flushing 7000#64 8000#64).config.settleUs ≤ ((flushing 7000#64 8000#64).env.now - 7000#64).toNat) ∧
    (flushing 7000#64 7999#64).seq.flushT0 = some 7000#64 ∧
    ¬(flushing 7000#64 7999#64).config.settleUs ≤ ((flushing 7000#64 7999#64).env.now - 7000#64).toNat :=
  by decide

theorem test_hyp_DrainParsesUntilEmpty :
    (pollFree (ringOf [] 7 7) = true ∧ (ringOf [] 7 7).ring.wr = (ringOf [] 7 7).ring.rd) ∧
    (pollFree ringV8 = true ∧ ringV8.ring.wr ≠ ringV8.ring.rd) ∧
    (calling [.drain] ringV8).active = true ∧ (calling [.drain] ringV8).seq.txPend = [] ∧
    (calling [.drain] ringV8).seq.calls = .drain :: [] ∧ (calling [.drain] (ringOf [] 7 7)).seq.calls = .drain :: [] :=
  by decide

theorem test_hyp_PollTakesThePhasesStep :
    (pollFree (ringOf [] 7 7) = true ∧ (ringOf [] 7 7).seq.phase = .ring ∧ (ringOf [] 7 7).ring.wr = (ringOf [] 7 7).ring.rd) ∧
    (pollFree ringV8 = true ∧ ringV8.seq.phase = .ring ∧ ringV8.ring.wr ≠ ringV8.ring.rd) ∧
    (pollFree (hostPhase []) = true ∧ (hostPhase []).seq.phase = .host ∧ (hostPhase []).env.hostIn = []) ∧
    (hostPhase [{ p0 := 0x0F#8, p1 := 0xF8#8, p2 := 0#8, p3 := 0#8 }]).env.hostIn =
      { p0 := 0x0F#8, p1 := 0xF8#8, p2 := 0#8, p3 := 0#8 } :: [] ∧
    msgOk { raw := [0xF8#8, 0#8, 0#8].take 1 } = true ∧ msgOk { raw := [0x40#8, 0#8, 0#8].take 1 } = false :=
  by decide

end Sys2Proof.Tests
end

/-! SUPPORT AND PROOFS. The family 10_state: the invariants of the state (spec/10_state.md R51), its reset values (R52), the
time base (R45) and the derived quantities of the ring (R25). -/

/-! ### A decoded packet is a Message (spec/42_codec.md R171, R173) -/

namespace Sys2Proof.Machine

open Sys2Proof

/-- What `VALID` accepts meets R30. -/
theorem msgOk_of_packetValid {n : Nat} {p : Packet} (h0 : n ≠ 0) (h : packetValid n p = true) :
    msgOk { raw := packetPayload n p } = true := by
  simp only [packetValid, Bool.and_eq_true, beq_iff_eq] at h
  obtain ⟨⟨⟨-, hlen⟩, h2⟩, h3⟩ := h
  have hle := lenOf_le hlen
  obtain rfl | rfl | rfl : n = 1 ∨ n = 2 ∨ n = 3 := by omega
  · simp [packetPayload, msgOk, hlen]
  · have hd2 : p.p2 < 0x80#8 := by simpa using h2
    simp [packetPayload, msgOk, hlen, hd2]
  · have hd2 : p.p2 < 0x80#8 := by simpa using h2
    have hd3 : p.p3 < 0x80#8 := by simpa using h3
    simp [packetPayload, msgOk, hlen, hd2, hd3]

theorem msgOk_decodeMsg {p : Packet} (h : decodeMsg p ≠ nullMessage) : msgOk (decodeMsg p) = true := by
  unfold decodeMsg decodeCounted at h ⊢
  split at h
  · exact absurd rfl h
  · split at h
    · simpa [*] using msgOk_of_packetValid ‹_› ‹_›
    · exact absurd rfl h

theorem msgOk_of_msgIsVoice {m : Message} (h : msgIsVoice m = true) : msgOk m = true := (Bool.and_eq_true_iff.1 h).1

/-! ### Operations that keep the parser's part of the invariant -/

theorem ParseInv.of_routerFrame {s t : State} (h : ParseInv s) (f : RouterFrame s t) (ht : t.seq.txPend.length ≤ 3) :
    ParseInv t :=
  ⟨f.parser ▸ h.parser, f.mbx ▸ h.mailbox, ht⟩

theorem mirror_inv (m : Message) {s : State} (h : ParseInv s) : ParseInv (mirror m s) :=
  h.of_routerFrame (mirror_frame m s) (mirror_txPend m s ▸ h.txPend)

theorem route_inv {m : Message} (hm : msgOk m = true) {s : State} (h : ParseInv s) : ParseInv (route m s) :=
  h.of_routerFrame (route_frame m s) (route_txPend_le hm h.txPend)

theorem forward_inv {m : Message} (hm : msgOk m = true) (e : Fin nInt) {s : State} (h : ParseInv s) :
    ParseInv (forward m e s) :=
  h.of_routerFrame (forward_frame m e s) (by
    simpa only [forward_seq_txPend, forwardBytes_length hm e] using (msgOk_length hm).2)

theorem hostPacket_inv (p : Packet) {s : State} (h : ParseInv s) : ParseInv (hostPacket p s) := by
  unfold hostPacket hostMessage
  split
  · exact raise_inv _ h
  · exact route_inv (msgOk_decodeMsg ‹_›) h

/-! ### `RingInv` under the two operations of the ring -/

theorem ringCap_pos (s : State) : 0 < ringCap s := Nat.two_pow_pos _

theorem ringNext_lt (s : State) (x : Nat) : ringNext s x < ringCap s := Nat.mod_lt _ (ringCap_pos s)

theorem RingInv.congr {s t : State} (h : RingInv s) (config : t.config = s.config) (ring : t.ring = s.ring) :
    RingInv t := by
  obtain ⟨hwr, hrd, hwf, hin⟩ := h
  constructor <;> simpa only [ringCap, config, ring]

theorem RingInv.advanceRd {s : State} (h : RingInv s) :
    RingInv { s with ring := { s.ring with rd := ringNext s s.ring.rd } } :=
  ⟨h.wr, ringNext_lt s _, h.wf, h.inRange⟩

theorem RingInv.ringPush (b : Byte) {s : State} (h : RingInv s) : RingInv (ringPush b s) := by
  rcases ringPush_cases b s with ⟨-, he⟩ | ⟨-, he⟩ <;> rw [he]
  · exact ⟨h.wr, h.rd, h.wf, h.inRange⟩
  · exact ⟨ringNext_lt s _, h.rd, Memory.wf_write h.wf, Memory.inRange_write h.inRange (Nat.mod_lt _ (ringCap_pos s))⟩

/-! ### The wait condition of `SEND` leaves a place in the queue (spec/44_link_tx.md R220) -/

theorem hwq_lt_of_sendReady {s : State} (h : sendReady s = true) : s.link.hwq.length < s.config.hwqDepth :=
  of_decide_eq_true (Bool.and_eq_true_iff.1 h).2

/-! ### Both outcomes of `INIT` (spec/70_reset_and_hazards.md R302) -/

theorem initialise_true {s : State} {gap : Option Time} (ha : s.active = false) (hf : s.initFail = false) :
    initialise true gap s = { s with link := { s.link with minGapUs := gap.getD minGapDefault }, active := true } := by
  simp [initialise, ha, hf]

theorem initialise_false {s : State} {gap : Option Time} (ha : s.active = false) (hf : s.initFail = false) :
    initialise false gap s = raise (.initFailure s.env.failedTransport) { s with initFail := true } := by
  simp [initialise, ha, hf]

/-! ### `StateInv` from what an operation leaves -/

/-- The two states agree on every field that `StateInv` reads. -/
structure SameInvFields (s t : State) : Prop where
  config : t.config = s.config
  ring : t.ring = s.ring
  parser : t.parser = s.parser
  mbx : t.mbx = s.mbx
  hwq : t.link.hwq = s.link.hwq
  txPend : t.seq.txPend = s.seq.txPend
  active : t.active = s.active
  initFail : t.initFail = s.initFail

namespace StateInv

variable {s t : State}

theorem parseInv (h : StateInv s) : ParseInv s := ⟨h.parser, h.mailbox, h.txPend⟩

theorem congr (h : StateInv s) (f : SameInvFields s t) : StateInv t where
  config := by rw [f.config]; exact h.config
  ring := h.ring.congr f.config f.ring
  parser := by rw [f.parser]; exact h.parser
  mailbox := by rw [f.mbx]; exact h.mailbox
  hwq := by rw [f.hwq, f.config]; exact h.hwq
  txPend := by rw [f.txPend]; exact h.txPend
  inert := by rw [f.active, f.initFail]; exact h.inert

theorem of_parserFrame (h : StateInv s) (f : ParserFrame s t) (p : ParseInv t) : StateInv t where
  config := by rw [f.config]; exact h.config
  ring := h.ring.congr f.config f.ring
  parser := p.parser
  mailbox := p.mailbox
  hwq := by rw [f.link, f.config]; exact h.hwq
  txPend := p.txPend
  inert := by rw [f.active, f.initFail]; exact h.inert

theorem after_raise (e : Event) (h : StateInv s) : StateInv (raise e s) := h.congr (by constructor <;> rfl)

theorem after_respond (r : Response) (h : StateInv s) : StateInv (respond r s) := h.congr (by constructor <;> rfl)

theorem after_parse (b : Byte) (h : StateInv s) : StateInv (parse b s) :=
  h.of_parserFrame (parse_frame b s) (parse_inv h.parseInv)

theorem after_hostPacket (p : Packet) (h : StateInv s) : StateInv (hostPacket p s) :=
  h.of_parserFrame (hostPacket_frame p s).toParserFrame (hostPacket_inv p h.parseInv)

theorem after_advanceRd (h : StateInv s) : StateInv { s with ring := { s.ring with rd := ringNext s s.ring.rd } } :=
  ⟨h.config, h.ring.advanceRd, h.parser, h.mailbox, h.hwq, h.txPend, h.inert⟩

theorem after_ringPush (b : Byte) (h : StateInv s) : StateInv (ringPush b s) := by
  have hr := h.ring.ringPush b
  rcases ringPush_cases b s with ⟨-, he⟩ | ⟨-, he⟩ <;> rw [he] at hr ⊢ <;>
    exact ⟨h.config, hr, h.parser, h.mailbox, h.hwq, h.txPend, h.inert⟩

theorem after_returnCall (rest : List Call) (h : StateInv s) : StateInv (returnCall rest s) :=
  h.congr (by constructor <;> rfl)

theorem after_mbxTake (h : StateInv s) : StateInv (mbxTake s) := by
  unfold mbxTake
  split
  · exact ⟨h.config, h.ring.congr rfl rfl, h.parser, nofun, h.hwq, h.txPend, h.inert⟩
  · exact h.after_respond _

theorem after_enqueue (b : Byte) (h : StateInv s) (hs : sendReady s = true) : StateInv (enqueue b s) := by
  have hq : (enqueue b s).link.hwq.length ≤ s.config.hwqDepth := by simpa using hwq_lt_of_sendReady hs
  exact ⟨h.config, h.ring.congr rfl rfl, h.parser, h.mailbox, hq, h.txPend, h.inert⟩

theorem after_dropSent {rest : List Byte} (h : StateInv s) (hl : rest.length ≤ 3) : StateInv (dropSent rest s) := by
  unfold dropSent
  dsimp only
  split <;> exact ⟨h.config, h.ring.congr rfl rfl, h.parser, h.mailbox, h.hwq, hl, h.inert⟩

theorem after_linkPop (h : StateInv s) : StateInv (linkPop s) := by
  unfold linkPop
  split
  · exact h
  · rename_i b rest hq
    have hl : rest.length ≤ s.config.hwqDepth := by
      have := h.hwq
      rw [hq, List.length_cons] at this
      omega
    exact ⟨h.config, h.ring.congr rfl rfl, h.parser, h.mailbox, hl, h.txPend, h.inert⟩

theorem after_initialise (ok : Bool) (gap : Option Time) (h : StateInv s) (ha : s.active = false) (hf : s.initFail = false) :
    StateInv (initialise ok gap s) := by
  cases ok
  · rw [initialise_false ha hf]
    exact ⟨h.config, h.ring.congr rfl rfl, h.parser, h.mailbox, h.hwq, h.txPend, fun hact => by simp [ha] at hact⟩
  · rw [initialise_true ha hf]
    exact ⟨h.config, h.ring.congr rfl rfl, h.parser, h.mailbox, h.hwq, h.txPend, fun _ => hf⟩

/-- A step of the sequencer, or of the oldest call, keeps the invariant. -/
theorem after_pollStep_serveCall (h : StateInv s) : StateInv (pollStep s) ∧ StateInv (serveCall s) :=
  pollStep_cases s StateInv h
    (hset := fun _ => h.congr (by constructor <;> rfl))
    (hparse := fun _ b => h.after_advanceRd.after_parse b)
    (hhost := fun p _ _ => (h.congr (by constructor <;> rfl)).after_hostPacket p)
    (hret := fun rest => h.after_returnCall rest)
    (hmbx := fun rest => (h.after_returnCall rest).after_mbxTake)
    (hsend := fun b rest hs => (h.after_returnCall rest).after_enqueue b hs)
    (hflush := fun rest => (h.after_returnCall rest).after_respond _)
    (hwait := fun _ => h.congr (by constructor <;> rfl))
    (hdrop := fun b rest hs ht => (h.after_enqueue b hs).after_dropSent (by
      have := h.txPend
      rw [ht, List.length_cons] at this
      omega))

theorem after_beginCall (c : Call) (h : StateInv s) : StateInv (beginCall c s) :=
  have hc : StateInv { s with seq := { s.seq with calls := [c], flushT0 := none } } :=
    h.congr (by constructor <;> rfl)
  hc.after_pollStep_serveCall.2

/-- Every effect of an instruction keeps the invariant. -/
theorem after_effect (e : Effect s t) (h : StateInv s) : StateInv t := by
  have hp := h.parseInv
  cases e with
  | stay => exact h
  | parsed b => exact h.after_parse b
  | hosted p => exact h.after_hostPacket p
  | responded r => exact h.after_respond r
  | decodedNull p r => exact (h.after_raise _).after_respond r
  | delivered m hm => exact h.of_parserFrame (deliver_frame m s) (deliver_inv hm h.parser h.txPend)
  | listened m hm => exact h.of_parserFrame (onParserMessage_frame m s).toParserFrame (route_inv hm (mirror_inv m hp))
  | mirrored m => exact h.of_parserFrame (mirror_frame m s).toParserFrame (mirror_inv m hp)
  | routed m hm => exact h.of_parserFrame (route_frame m s).toParserFrame (route_inv hm hp)
  | dropped m => exact h.congr (by constructor <;> rfl)
  | forwarded m k hm =>
    exact h.of_parserFrame (forward_frame m k s).toParserFrame (forward_inv (msgOk_of_msgIsVoice hm) k hp)
  | pulsed => exact h.congr (by constructor <;> rfl)
  | popped b u hu =>
    obtain ⟨-, -, rfl⟩ := ringPop_some hu
    exact h.after_advanceRd.after_respond _
  | pushed b => exact h.after_ringPush b
  | linkPopped => exact h.after_linkPop
  | polled => exact h.after_pollStep_serveCall.1
  | served c => exact h.after_beginCall c
  | queued c => exact h.congr (by constructor <;> rfl)
  | remapped map enable => exact h.congr (by constructor <;> rfl)
  | initialised ok gap ha hf => exact h.after_initialise ok gap ha hf

/-- A turn of the environment writes nothing the invariant reads. -/
theorem after_envEffect (e : EnvEffect s t) (h : StateInv s) : StateInv t := by
  cases e <;> exact h.congr (by constructor <;> rfl)

end StateInv

/-- Settles O9: every shared operation keeps the invariant, and a step is one of them or a turn of the environment. -/
theorem stepKeepsStateInv : Obligations.StepKeepsStateInv :=
  fun _ _ hs h => step_keeps StateInv (fun _ _ => StateInv.after_effect) (fun _ _ => StateInv.after_envEffect) h hs

/-! ### The time base (R45) -/

/-- A step of the sequencer, or of the oldest call, leaves `now`. -/
theorem pollStep_now (s : State) : (pollStep s).env.now = s.env.now ∧ (serveCall s).env.now = s.env.now :=
  pollStep_cases s (fun t => t.env.now = s.env.now) rfl
    (hset := fun _ => rfl)
    (hparse := fun _ b => by rw [(parse_frame b _).env])
    (hhost := fun p _ _ => by rw [(hostPacket_frame p _).env])
    (hret := fun _ => rfl)
    (hmbx := fun _ => by unfold mbxTake; split <;> rfl)
    (hsend := fun _ _ _ => rfl)
    (hflush := fun _ => rfl)
    (hwait := fun _ => rfl)
    (hdrop := fun _ _ _ _ => by unfold dropSent; dsimp only; split <;> rfl)

theorem Effect.now_eq {s t : State} (e : Effect s t) : t.env.now = s.env.now := by
  cases e with
  | parsed b => rw [(parse_frame b s).env]
  | hosted p => rw [(hostPacket_frame p s).env]
  | delivered m => rw [(deliver_frame m s).env]
  | listened m => rw [(onParserMessage_frame m s).env]
  | mirrored m => rw [(mirror_frame m s).env]
  | routed m => rw [(route_frame m s).env]
  | popped b u hu => rw [(ringPop_some hu).2.2]; rfl
  | pushed b => rcases ringPush_cases b s with ⟨-, he⟩ | ⟨-, he⟩ <;> simp [he]
  | linkPopped => unfold linkPop; split <;> rfl
  | polled => exact (pollStep_now s).1
  | served c => exact (pollStep_now _).2
  | initialised ok gap ha hf =>
    cases ok
    · rw [initialise_false ha hf, raise_env]
    · rw [initialise_true ha hf]
  | _ => rfl

/-- Only an advance that fits in 64 bits moves `now`, so it does not wrap (D20). -/
theorem EnvEffect.now_le {s t : State} (e : EnvEffect s t) : s.env.now ≤ t.env.now := by
  cases e with
  | time d hfit =>
    simp only [advanceFits, decide_eq_true_eq] at hfit
    rw [BitVec.le_def, BitVec.toNat_add_of_lt hfit]
    omega
  | _ => exact BitVec.le_refl _

/-- Settles O6: an instruction leaves `now`, and a turn of the environment advances it only where it fits. -/
theorem timeNeverGoesBack : Obligations.TimeNeverGoesBack := by
  refine ⟨fun s t h => ?_, fun i s t h => (exec_effect h).now_eq⟩
  refine step_keeps (fun u => s.env.now ≤ u.env.now) (fun u v e hu => ?_) (fun u v e hu => ?_) h (BitVec.le_refl _)
  · exact e.now_eq.symm ▸ hu
  · exact BitVec.le_trans hu e.now_le

/-! ### Nothing happens while the gate is closed (spec/45_poll_loop.md R244, spec/70_reset_and_hazards.md R304) -/

section

variable {s t : State} {i : Instr}

theorem onPoll_busy_next {op : State → State} (hb : pollFree s = false) (h : onPoll op s = .next t) : t = s := by
  rcases onPoll_next h with ⟨hf, -⟩ | rfl
  · simp [hb] at hf
  · rfl

theorem onMessage_busy_next {m : Message} {op : State → State} (hb : pollFree s = false)
    (h : onMessage m op s = .next t) : t = s := by
  rcases onMessage_next h with ⟨-, hf, -⟩ | rfl
  · simp [hb] at hf
  · rfl

theorem onVoiceMessage_busy_next {m : Message} {op : State → State} (hb : pollFree s = false)
    (h : onVoiceMessage m op s = .next t) : t = s := by
  rcases onVoiceMessage_next h with ⟨-, hf, -⟩ | rfl
  · simp [hb] at hf
  · rfl

/-- An operation of `A_POLL` that answers a next state while `A_POLL` is not free answers the same state. -/
theorem pollStep_busy_next (hi : isPollStep i = true) (hb : pollFree s = false) (h : exec i s = .next t) : t = s := by
  cases i
  case push | mapReplace | linkPop | init | poll | drain | mbxTake | send | flush => simp [isPollStep] at hi
  case deliver | onParserMessage | mirror | route | onHostMessage => exact onMessage_busy_next hb h
  case policyDrop | forward | encChannelVoice => exact onVoiceMessage_busy_next hb h
  case encode m =>
    simp only [exec, execEncode] at h
    split at h
    · simp at h
    · exact onMessage_busy_next hb h
  case pop | decode =>
    simp only [exec, execPop, execDecode] at h
    exact onPoll_busy_next hb h
  case strayF7 | sysexEnd | inBlockStatus | dataResume | dataFirst | dataSecond | dataStray | dataInBlock =>
    exact onPoll_busy_next hb ((exec_streamRow rfl s).symm.trans h)
  all_goals exact onPoll_busy_next hb h

theorem makeCall_inactive {c : Call} (ha : s.active = false) (h : makeCall c s = .next t) : t = s := by
  simpa [makeCall, ha] using h.symm

/-- While `active` is 0 an instruction other than `INIT` and `MAP_REPLACE` changes nothing. -/
theorem exec_inactive (ha : s.active = false) (h : exec i s = .next t) :
    (∃ ok gap, i = .init ok gap) ∨ (∃ map enable, i = .mapReplace map enable) ∨ t = s := by
  have hb : pollFree s = false := by simp [pollFree, ha]
  cases hi : isPollStep i
  · cases i
    case init ok gap => exact .inl ⟨ok, gap, rfl⟩
    case mapReplace map enable => exact .inr (.inl ⟨map, enable, rfl⟩)
    case push | linkPop | poll =>
      exact .inr (.inr (by simpa [exec, execPush, receiveInterrupt, execLinkPop, execPoll, ha] using h.symm))
    case drain | mbxTake | send | flush => exact .inr (.inr (makeCall_inactive ha h))
    all_goals simp [isPollStep] at hi
  · exact .inr (.inr (pollStep_busy_next hi hb h))

end

/-! ### Reset (R52) -/

/-- The default map sends channels 0 to 4 to the ids 0 to 4 and disables the rest. -/
theorem chmapDefault_map :
    ∀ k (h : k < 16), chmapDefault.map[k] = if k < 5 then BitVec.ofNat 8 k else 0xFF#8 := by decide

theorem chmapDefault_enable : ∀ k (h : k < nInt), chmapDefault.enable[k] = true := by decide

/-- Settles O7: the values by definition, and the reset state is inactive. -/
theorem resetValues : Obligations.ResetValues := fun _ =>
  ⟨rfl, rfl, rfl, rfl, rfl, rfl, rfl, rfl, rfl, chmapDefault_map, chmapDefault_enable, rfl, rfl, rfl, rfl, rfl, rfl, rfl,
    rfl, rfl, fun _ _ h => exec_inactive rfl h⟩

theorem stateInv_resetWith {c : Config} (hc : c.wf = true) : StateInv (State.resetWith c) where
  config := hc
  ring := ⟨ringCap_pos _, ringCap_pos _, State.resetWith_mem_wf c, nofun⟩
  parser := parserInv_done (p := (State.resetWith c).parser) nofun
  mailbox := nofun
  hwq := Nat.zero_le _
  txPend := Nat.zero_le _
  inert := nofun

/-- Settles O8: nothing is held, queued, sent or recorded at reset. -/
theorem resetMeetsInvariants : Obligations.ResetMeetsInvariants :=
  ⟨fun _ => stateInv_resetWith,
    fun _ => ⟨⟨rfl, rfl⟩, ⟨.nil, nofun, fun _ => rfl, nofun, fun _ => rfl⟩, ⟨rfl, rfl⟩⟩, rfl, by decide⟩

/-! ### The derived quantities of the ring (R25) -/

/-- `rb_count` without the modulus: the distance from `rb_rd` up to `rb_wr`, once around where `rb_wr` is below. -/
theorem ringCount_eq {s : State} (h : RingInv s) :
    ringCount s = if s.ring.rd ≤ s.ring.wr then s.ring.wr - s.ring.rd else s.ring.wr + ringCap s - s.ring.rd := by
  have hwr := h.wr
  have hrd := h.rd
  unfold ringCount
  split
  · rw [show s.ring.wr + ringCap s - s.ring.rd = s.ring.wr - s.ring.rd + ringCap s by omega, Nat.add_mod_right]
    exact Nat.mod_eq_of_lt (by omega)
  · exact Nat.mod_eq_of_lt (by omega)

theorem ringCount_lt (s : State) : ringCount s < ringCap s := Nat.mod_lt _ (ringCap_pos s)

theorem ringNext_eq {s : State} {x : Nat} (hx : x < ringCap s) : ringNext s x = if x + 1 = ringCap s then 0 else x + 1 := by
  unfold ringNext
  split
  · simp [*]
  · exact Nat.mod_eq_of_lt (by omega)

/-- The count as the spec writes it, with the modulus of the difference. -/
theorem ringCount_emod {s : State} (h : RingInv s) :
    (ringCount s : Int) = ((s.ring.wr : Int) - s.ring.rd) % (ringCap s : Nat) := by
  have hrd := h.rd
  rw [ringCount, Int.natCast_emod, Int.natCast_sub (by omega), Int.natCast_add,
    show (s.ring.wr : Int) + ringCap s - s.ring.rd = s.ring.wr - s.ring.rd + ringCap s by omega, Int.add_emod_right]

theorem ringEmpty_iff_count {s : State} (h : RingInv s) : ringEmpty s = true ↔ ringCount s = 0 := by
  have hwr := h.wr
  have hrd := h.rd
  rw [ringCount_eq h, ringEmpty, beq_iff_eq]
  split <;> omega

theorem ringFull_iff_count {s : State} (h : RingInv s) : ringFull s = true ↔ ringCount s = ringCap s - 1 := by
  have hwr := h.wr
  have hrd := h.rd
  rw [ringCount_eq h, ringFull, beq_iff_eq, ringNext_eq hwr]
  split <;> split <;> omega

theorem ringHeld_length (s : State) : (ringHeld s).length = ringCount s := by simp [ringHeld, ringHeldIndices]

/-- The byte `k` places after the oldest. -/
theorem ringHeld_getElem (s : State) (k : Nat) (h : k < (ringHeld s).length) :
    (ringHeld s)[k] = s.ring.mem.read ((s.ring.rd + k) % ringCap s) := by simp [ringHeld, ringHeldIndices]

/-- Settles O16. -/
theorem ringFullOneBelowCapacity : Obligations.RingFullOneBelowCapacity := fun s h =>
  ⟨ringCount_emod h, Nat.le_pred_of_lt (ringCount_lt s), beq_iff_eq, ringEmpty_iff_count h, beq_iff_eq,
    ringFull_iff_count h, ringHeld_length s, ringHeld_getElem s⟩

end Sys2Proof.Machine

/-! SUPPORT AND PROOFS. The family 20_memory: the ring is a FIFO (spec/20_memory.md R71, spec/40_ring_buffer.md R111). -/

namespace Sys2Proof.Machine

open Sys2Proof

/-! ### The two instructions through the operations of the ring (spec/40_ring_buffer.md R110, R112) -/

theorem exec_push_active {s : State} (b : Byte) (ha : s.active = true) : exec (.push b) s = .next (ringPush b s) := by
  simp [exec, execPush, receiveInterrupt, ha]

theorem exec_pop_nonempty {s : State} (hf : pollFree s = true) (he : ringEmpty s = false) :
    exec .pop s = .next (respond (.popped (some (ringRead s s.ring.rd)))
      { s with ring := { s.ring with rd := ringNext s s.ring.rd } }) := by
  simp [exec, execPop, onPoll_free hf, ringPop, he]

/-! ### Where the held bytes stand (spec/10_state.md R25) -/

theorem ringHeld_eq_map (s : State) :
    ringHeld s = (List.range (ringCount s)).map (fun i => s.ring.mem.read ((s.ring.rd + i) % ringCap s)) := by
  simp [ringHeld, ringHeldIndices]

/-- Of the indices counted from `rb_rd` once around, only the one after the last held byte is `rb_wr`. -/
theorem ringSlot_eq_wr_iff {s : State} (h : RingInv s) {i : Nat} (hi : i < ringCap s) :
    (s.ring.rd + i) % ringCap s = s.ring.wr ↔ i = ringCount s := by
  have hwr := h.wr
  have hrd := h.rd
  rw [ringCount_eq h, Nat.add_mod_eq_ite, Nat.mod_eq_of_lt hrd, Nat.mod_eq_of_lt hi]
  split <;> split <;> omega

/-- `rb_wr` is the index after the last held byte. -/
theorem ringSlot_count {s : State} (h : RingInv s) : (s.ring.rd + ringCount s) % ringCap s = s.ring.wr :=
  (ringSlot_eq_wr_iff h (ringCount_lt s)).2 rfl

/-! ### An accepted `PUSH` appends, a rejected one leaves -/

theorem ringPush_of_not_full {s : State} (b : Byte) (hf : ringFull s = false) :
    ringPush b s =
      { s with ring := { s.ring with mem := s.ring.mem.write (ringIndex s s.ring.wr) b, wr := ringNext s s.ring.wr } } := by
  simp [ringPush, hf]

theorem ringCount_ringPush {s : State} (h : RingInv s) (b : Byte) (hf : ringFull s = false) :
    ringCount (ringPush b s) = ringCount s + 1 := by
  have hwr := ringSlot_count h
  have hroom : ringCount s + 1 < ringCap s := by
    have hne := mt (ringFull_iff_count h).2 (by simp [hf])
    have hlt := ringCount_lt s
    omega
  have ht := h.ringPush b
  rw [ringPush_of_not_full b hf] at ht ⊢
  refine ((ringSlot_eq_wr_iff ht hroom).1 ?_).symm
  show (s.ring.rd + (ringCount s + 1)) % ringCap s = (s.ring.wr + 1) % ringCap s
  rw [← hwr, Nat.mod_add_mod, Nat.add_assoc]

/-- The byte goes to the place after the last held one, and every held byte stays. -/
theorem ringPush_read_slot {s : State} (h : RingInv s) (b : Byte) (hf : ringFull s = false) {i : Nat}
    (hi : i < ringCap s) :
    (ringPush b s).ring.mem.read ((s.ring.rd + i) % ringCap s) =
      if i = ringCount s then b else s.ring.mem.read ((s.ring.rd + i) % ringCap s) := by
  rw [ringPush_of_not_full b hf]
  simp only [Memory.read_write h.wf, ringIndex, Nat.mod_eq_of_lt h.wr, ringSlot_eq_wr_iff h hi]

theorem ringHeld_ringPush {s : State} (h : RingInv s) (b : Byte) (hf : ringFull s = false) :
    ringHeld (ringPush b s) = ringHeld s ++ [b] := by
  have hlt := ringCount_lt s
  have hheld : ringHeld (ringPush b s) =
      (List.range (ringCount s + 1)).map
        (fun i => (ringPush b s).ring.mem.read ((s.ring.rd + i) % ringCap s)) := by
    rw [ringHeld_eq_map, ringCount_ringPush h b hf, ringPush_of_not_full b hf]
    rfl
  rw [hheld, List.range_succ, List.map_append, List.map_singleton, ringPush_read_slot h b hf hlt, if_pos rfl,
    ringHeld_eq_map]
  congr 1
  refine List.map_congr_left fun i hmem => ?_
  have hi := List.mem_range.1 hmem
  rw [ringPush_read_slot h b hf (hi.trans hlt), if_neg hi.ne]

theorem ringHeld_ringPush_full {s : State} (b : Byte) (hf : ringFull s = true) : ringHeld (ringPush b s) = ringHeld s := by
  simp only [ringPush, hf, if_true]
  rfl

/-! ### `POP` takes the front -/

theorem ringCount_advanceRd {s : State} (h : RingInv s) (he : ringEmpty s = false) :
    ringCount s = ringCount { s with ring := { s.ring with rd := ringNext s s.ring.rd } } + 1 := by
  have hwr := ringSlot_count h
  have hpos : ringCount s ≠ 0 := mt (ringEmpty_iff_count h).2 (by simp [he])
  obtain ⟨n, hn⟩ := Nat.exists_eq_add_one_of_ne_zero hpos
  have hlt := ringCount_lt s
  rw [hn] at hlt hwr ⊢
  refine congrArg (· + 1) ((ringSlot_eq_wr_iff h.advanceRd (Nat.lt_of_succ_lt hlt)).1 ?_)
  show ((s.ring.rd + 1) % ringCap s + n) % ringCap s = s.ring.wr
  rw [← hwr, Nat.mod_add_mod, Nat.add_assoc, Nat.add_comm 1 n]

theorem ringHeld_advanceRd {s : State} (h : RingInv s) (he : ringEmpty s = false) :
    ringHeld s = ringRead s s.ring.rd :: ringHeld { s with ring := { s.ring with rd := ringNext s s.ring.rd } } := by
  rw [ringHeld_eq_map, ringHeld_eq_map, ringCount_advanceRd h he, List.range_succ_eq_map, List.map_cons, List.map_map]
  refine congrArg _ (List.map_congr_left fun i _ => ?_)
  show s.ring.mem.read ((s.ring.rd + (i + 1)) % ringCap s) =
    s.ring.mem.read (((s.ring.rd + 1) % ringCap s + i) % ringCap s)
  rw [Nat.mod_add_mod, Nat.add_right_comm, Nat.add_assoc]

/-- Settles O17: the held bytes run from `rb_rd` up to `rb_wr`; an accepted `PUSH` moves the one end, `POP` the other. -/
theorem ringIsFifo : Obligations.RingIsFifo := fun _ h =>
  ⟨fun b ha hf => ⟨_, exec_push_active b ha, ringHeld_ringPush h b hf, h.ringPush b⟩,
    fun b ha hf => ⟨_, exec_push_active b ha, ringHeld_ringPush_full b hf, h.ringPush b⟩,
    fun hp he => ⟨_, _, exec_pop_nonempty hp he, rfl, ringHeld_advanceRd h he, h.advanceRd.congr rfl rfl⟩⟩

end Sys2Proof.Machine

/-! SUPPORT AND PROOFS. The family 30_encoding: decoding undoes encoding in all three encoded spaces (R80 to
R100), running status (R87) and the opacity of a system block (R89). -/

namespace Sys2Proof.Laws.DecodeEncode

/-- Every instruction's bytes, decoded in a context that selects it, give it back. -/
theorem statement : ∀ i : Instr, Statement i
  | .noteOffStatus ch => noteOffStatus ch
  | .noteOnStatus ch => noteOnStatus ch
  | .polyPressureStatus ch => polyPressureStatus ch
  | .controlChangeStatus ch => controlChangeStatus ch
  | .programChangeStatus ch => programChangeStatus ch
  | .channelPressureStatus ch => channelPressureStatus ch
  | .pitchBendStatus ch => pitchBendStatus ch
  | .sysexStart => sysexStart
  | .sysF1 => sysF1
  | .sysF2 => sysF2
  | .sysF3 => sysF3
  | .undefF4 => undefF4
  | .undefF5 => undefF5
  | .tuneRequest => tuneRequest
  | .strayF7 => strayF7
  | .sysexEnd => sysexEnd
  | .inBlockStatus low => inBlockStatus low
  | .rtF8 => rtF8
  | .rtF9 => rtF9
  | .rtFA => rtFA
  | .rtFB => rtFB
  | .rtFC => rtFC
  | .rtFD => rtFD
  | .rtFE => rtFE
  | .rtFF => rtFF
  | .dataResume v => dataResume v
  | .dataFirst v => dataFirst v
  | .dataSecond v => dataSecond v
  | .dataStray v => dataStray v
  | .dataInBlock v => dataInBlock v
  | .pktCin0 cn p1 p2 p3 => pktCin0 cn p1 p2 p3
  | .pktCin1 cn p1 p2 p3 => pktCin1 cn p1 p2 p3
  | .pktSys2 cn p1 p2 p3 => pktSys2 cn p1 p2 p3
  | .pktSys3 cn p1 p2 p3 => pktSys3 cn p1 p2 p3
  | .pktCin4 cn p1 p2 p3 => pktCin4 cn p1 p2 p3
  | .pktSys1 cn p1 p2 p3 => pktSys1 cn p1 p2 p3
  | .pktCin6 cn p1 p2 p3 => pktCin6 cn p1 p2 p3
  | .pktCin7 cn p1 p2 p3 => pktCin7 cn p1 p2 p3
  | .pktNoteOff cn p1 p2 p3 => pktNoteOff cn p1 p2 p3
  | .pktNoteOn cn p1 p2 p3 => pktNoteOn cn p1 p2 p3
  | .pktPolyPressure cn p1 p2 p3 => pktPolyPressure cn p1 p2 p3
  | .pktControlChange cn p1 p2 p3 => pktControlChange cn p1 p2 p3
  | .pktProgramChange cn p1 p2 p3 => pktProgramChange cn p1 p2 p3
  | .pktChannelPressure cn p1 p2 p3 => pktChannelPressure cn p1 p2 p3
  | .pktPitchBend cn p1 p2 p3 => pktPitchBend cn p1 p2 p3
  | .pktSingleByte cn p1 p2 p3 => pktSingleByte cn p1 p2 p3
  | .encChannelVoice m => encChannelVoice m
  | .encRealTime r => encRealTime r
  | .encSysF0 => encSysF0
  | .encSysF6 => encSysF6
  | .encSysF1 d => encSysF1 d
  | .encSysF3 d => encSysF3 d
  | .encSysF2 d1 d2 => encSysF2 d1 d2
  | .push _ | .pop | .drain | .parse _ | .deliver _ | .mbxTake | .decode _ | .encode _ | .onParserMessage _ | .mirror _
  | .route _ | .onHostMessage _ | .policyDrop _ | .forward _ _ | .pulse | .mapReplace _ _ | .send _ | .flush | .linkPop
  | .poll | .init _ _ => ofNone rfl

end Sys2Proof.Laws.DecodeEncode

namespace Sys2Proof.Machine

open Sys2Proof

/-! ### Decoding undoes encoding -/

/-- The decoder of an input stream reads from the front: bytes that follow are left over behind what it left. -/
theorem decodeFormat_append {ctx : DecodeCtx} {f : Format} {bytes left : List Byte} {i : Instr} (hf : f ≠ .encoder)
    (h : decodeFormat ctx f bytes = .ok (i, left)) (rest : List Byte) :
    decodeFormat ctx f (bytes ++ rest) = .ok (i, left ++ rest) := by
  cases f with
  | encoder => exact absurd rfl hf
  | stream =>
    match bytes, h with
    | _ :: _, h =>
      cases h
      rfl
  | packet =>
    match bytes, h with
    | _ :: _ :: _ :: _ :: _, h =>
      cases h
      rfl

/-- Settles O2: row by row, and the input streams are read from the front. -/
theorem decodeUndoesEncode : Obligations.DecodeUndoesEncode := fun i ctx f bytes hw hs he =>
  have hd := Laws.DecodeEncode.statement i ctx f bytes hw hs he
  ⟨hd, fun hf rest => decodeFormat_append hf hd rest⟩

/-! ### A stream byte and a packet select one row -/

theorem decodeRealTime_selected (ctx : DecodeCtx) (b : Byte) :
    (decodeRealTime b).wf = true ∧ rowSelected ctx (decodeRealTime b) = true := by
  unfold decodeRealTime
  split <;> exact ⟨rfl, rfl⟩

/-- A status byte that is acted on: outside a block, or one other than `F7` that aborts the block. -/
theorem decodeStatus_selected {ctx : DecodeCtx} {b : Byte}
    (h : ctx.st ≠ .ignoringSystemBlock ∨ ctx.sysexAborts = true ∧ decodeStatus b ≠ .strayF7) :
    (decodeStatus b).wf = true ∧ rowSelected ctx (decodeStatus b) = true := by
  unfold decodeStatus at h ⊢
  split
  case h_8 => split <;> simp_all [Instr.wf, rowSelected]
  all_goals simp_all [Instr.wf, rowSelected]

theorem decodeStatus_ne_strayF7 {b : Byte} (hs : isStatus b = true) (hr : isRealTime b = false) (h7 : b ≠ 0xF7#8) :
    decodeStatus b ≠ .strayF7 := by
  revert b; decide

/-- A status byte discarded in a block is `0x80` to `0xF6`. -/
theorem dataValue_le_of_inBlock {b : Byte} (hs : isStatus b = true) (hr : isRealTime b = false) (h7 : b ≠ 0xF7#8) :
    dataValue b ≤ 0x76#7 := by
  revert b; decide

theorem decodeInBlock_selected {ctx : DecodeCtx} {b : Byte} (hb : ctx.st = .ignoringSystemBlock)
    (hr : isRealTime b = false) :
    (decodeInBlock ctx.sysexAborts b).wf = true ∧ rowSelected ctx (decodeInBlock ctx.sysexAborts b) = true := by
  unfold decodeInBlock
  split
  case isTrue => simp [Instr.wf, rowSelected, hb]
  case isFalse h7 =>
    split
    case isTrue hs =>
      split
      case isTrue ha => exact decodeStatus_selected (.inr ⟨ha, decodeStatus_ne_strayF7 hs hr h7⟩)
      case isFalse ha => simp [Instr.wf, rowSelected, hb, ha, dataValue_le_of_inBlock hs hr h7]
    case isFalse => simp [Instr.wf, rowSelected, hb]

theorem decodeData_selected {ctx : DecodeCtx} (b : Byte) :
    (decodeData ctx.st ctx.rsValid b).wf = true ∧ rowSelected ctx (decodeData ctx.st ctx.rsValid b) = true := by
  unfold decodeData
  split
  case h_4 => split <;> simp [Instr.wf, rowSelected, *]
  all_goals simp [Instr.wf, rowSelected, *]

/-- The row a byte decodes to is well formed and the one the context selects, test by test of R120. -/
theorem decodeByte_selected (ctx : DecodeCtx) (b : Byte) :
    (decodeByte ctx b).wf = true ∧ rowSelected ctx (decodeByte ctx b) = true := by
  unfold decodeByte
  split
  case isTrue => exact decodeRealTime_selected ctx b
  case isFalse hr =>
    split
    case isTrue hb => exact decodeInBlock_selected hb (by simpa using hr)
    case isFalse hb =>
      split
      case isTrue => exact decodeStatus_selected (.inl hb)
      case isFalse => exact decodeData_selected b

/-- No other selected row has the byte: it is what the byte decodes to. -/
theorem eq_decodeByte {ctx : DecodeCtx} {i : Instr} {b : Byte} (hw : i.wf = true) (hs : rowSelected ctx i = true)
    (he : encode i = some (.stream, [b])) : i = decodeByte ctx b := by
  have hd := Laws.DecodeEncode.statement i ctx _ _ hw hs he
  simp only [decodeFormat, Except.ok.injEq, Prod.mk.injEq, and_true] at hd
  exact hd.symm

/-- A packet row is well formed and selected in every context. -/
theorem packetRow_selected {i : Instr} {bytes : List Byte} (he : encode i = some (.packet, bytes)) (ctx : DecodeCtx) :
    i.wf = true ∧ rowSelected ctx i = true := by
  cases i <;> simp [encode, encodeStreamRow] at he <;> exact ⟨rfl, rfl⟩

theorem eq_decodePacket {i : Instr} {p : Packet} (he : encode i = some (.packet, [p.p0, p.p1, p.p2, p.p3])) :
    i = decodePacket p := by
  obtain ⟨hw, hs⟩ := packetRow_selected he decodeCtxReset
  have hd := Laws.DecodeEncode.statement i decodeCtxReset _ _ hw hs he
  simp only [decodeFormat, Except.ok.injEq, Prod.mk.injEq, and_true] at hd
  exact hd.symm

/-! ### The encoder takes exactly the Messages -/

theorem dataByte_dataValue {d : Byte} (h : d < 0x80#8) : dataByte (dataValue d) = d := by
  revert d; decide

theorem realTimeByte_extract {b : Byte} (h : isRealTime b = true) : realTimeByte (b.extractLsb' 0 3) = b := by
  revert b; decide

theorem lenOf_realTime {b : Byte} (h : isRealTime b = true) : lenOf b = some 1 := by
  revert b; decide

/-- The system-common status bytes that begin a Message, by its length. -/
theorem lenOf_system {b : Byte} (hk : kindOf b ≠ none) (hv : isChannelVoice b = false) (hr : isRealTime b = false) :
    lenOf b = some 1 ∧ (b = 0xF0#8 ∨ b = 0xF6#8) ∨ lenOf b = some 2 ∧ (b = 0xF1#8 ∨ b = 0xF3#8) ∨
      lenOf b = some 3 ∧ b = 0xF2#8 := by
  revert b; decide

theorem kindOf_of_lenOf {b : Byte} {n : Nat} (h : lenOf b = some n) : kindOf b ≠ none := by
  intro hk
  simp [lenOf, nd, hk] at h

/-- A record that is no Message is rejected: it is empty, its status byte has no kind, or its length or a data byte is
wrong. -/
theorem decodeMessage_error {m : Message} (h : msgOk m = false) : ∃ e, decodeMessage m = .error e := by
  unfold decodeMessage
  split
  · exact ⟨_, rfl⟩
  · split
    · exact ⟨_, rfl⟩
    · exact ⟨.notAMessage, by simp [h]⟩

/-- A system-common Message is the encoding of one of the five system rows of the encoder. -/
theorem exists_systemRow {s : Byte} {ds : List Byte} (hlen : lenOf s = some (ds.length + 1))
    (hds : ∀ d ∈ ds, d < 0x80#8) (hv : isChannelVoice s = false) (hr : isRealTime s = false) :
    ∃ i, i.wf = true ∧ encode i = some (.encoder, s :: ds) := by
  rcases lenOf_system (kindOf_of_lenOf hlen) hv hr with ⟨hl, hs⟩ | ⟨hl, hs⟩ | ⟨hl, rfl⟩ <;>
    simp only [hl, Option.some.injEq, Nat.right_eq_add, Nat.reduceEqDiff] at hlen
  · obtain rfl := List.length_eq_zero_iff.1 hlen
    rcases hs with rfl | rfl
    · exact ⟨.encSysF0, rfl, rfl⟩
    · exact ⟨.encSysF6, rfl, rfl⟩
  · obtain ⟨d, rfl⟩ := List.length_eq_one_iff.1 hlen
    have hd := dataByte_dataValue (hds d (by simp))
    rcases hs with rfl | rfl
    · exact ⟨.encSysF1 (dataValue d), rfl, by simp only [encode, hd]⟩
    · exact ⟨.encSysF3 (dataValue d), rfl, by simp only [encode, hd]⟩
  · obtain ⟨d1, d2, rfl⟩ := List.length_eq_two.1 hlen
    have hd1 := dataByte_dataValue (hds d1 (by simp))
    have hd2 := dataByte_dataValue (hds d2 (by simp))
    exact ⟨.encSysF2 (dataValue d1) (dataValue d2), rfl, by simp only [encode, hd1, hd2]⟩

/-- Every Message is the encoding of an encoder row, which its status byte names. -/
theorem exists_encoderRow {m : Message} (h : msgOk m = true) :
    ∃ i, i.wf = true ∧ encode i = some (.encoder, m.raw) := by
  obtain ⟨_ | ⟨s, ds⟩⟩ := m
  case nil => simp [msgOk] at h
  case cons =>
    by_cases hv : isChannelVoice s = true
    · exact ⟨.encChannelVoice { raw := s :: ds }, by simp [Instr.wf, msgIsVoice, msgStatus, h, hv], rfl⟩
    · simp only [msgOk, Bool.and_eq_true, beq_iff_eq, List.all_eq_true, decide_eq_true_eq] at h
      obtain ⟨hlen, hds⟩ := h
      by_cases hr : isRealTime s = true
      · obtain rfl : ds = [] := by simpa [lenOf_realTime hr] using hlen
        exact ⟨.encRealTime (s.extractLsb' 0 3), rfl, by simp only [encode, realTimeByte_extract hr]⟩
      · exact exists_systemRow hlen hds (by simpa using hv) (by simpa using hr)

theorem encoderRow_selected {i : Instr} {bytes : List Byte} (he : encode i = some (.encoder, bytes)) (ctx : DecodeCtx) :
    rowSelected ctx i = true := by
  cases i <;> simp [encode, encodeStreamRow, encodePacketRow] at he <;> rfl

theorem decodeMessage_of_encode {i : Instr} {m : Message} (hw : i.wf = true) (he : encode i = some (.encoder, m.raw)) :
    decodeMessage m = .ok i := by
  have hd := Laws.DecodeEncode.statement i decodeCtxReset _ _ hw (encoderRow_selected he _) he
  simp only [decodeFormat] at hd
  cases hm : decodeMessage m <;> simp_all

/-- Settles O3: the decoders answer the selected row, and it is the only one because decoding undoes encoding. -/
theorem everyWordSelectsOneRow : Obligations.EveryWordSelectsOneRow := by
  refine ⟨fun ctx b => ?_, fun p => ?_, fun m => ⟨fun hm => ?_, decodeMessage_error⟩⟩
  · obtain ⟨hw, hs⟩ := decodeByte_selected ctx b
    exact ⟨hw, hs, encode_decodeByte ctx b, fun _ => eq_decodeByte⟩
  · have he := encode_decodePacket p
    exact ⟨(packetRow_selected he decodeCtxReset).1, he, fun _ => eq_decodePacket⟩
  · obtain ⟨i, hw, he⟩ := exists_encoderRow hm
    exact ⟨i, decodeMessage_of_encode hw he, hw, he⟩

/-! ### The words of the spec -/

/-- Settles O1: each word is closed and small. -/
theorem decodedWordsAreTheSpecs : Obligations.DecodedWordsAreTheSpecs := by
  unfold Obligations.DecodedWordsAreTheSpecs
  decide

/-! ### Running instructions, and `PARSE` on a free poll context -/

theorem runInstrs_singleton (i : Instr) (s : State) : runInstrs [i] s = exec i s := by
  unfold runInstrs
  cases exec i s <;> rfl

theorem runInstrs_cons {s t : State} {i : Instr} {is : List Instr} (h : exec i s = .next t) :
    runInstrs (i :: is) s = runInstrs is t := by
  simp only [runInstrs, h]

theorem exec_parse_free {s : State} (b : Byte) (hf : pollFree s = true) : exec (.parse b) s = .next (parse b s) :=
  onPoll_free hf

/-! ### Running status (spec/30_encoding.md R87) -/

/-- A data byte outside a system block. -/
theorem parse_dataByte {s : State} (v : Data7) (hb : s.parser.st ≠ .ignoringSystemBlock) :
    parse (dataByte v) s = parseData (dataByte v) s := by
  simp [parse, dataByte_not_realTime, dataByte_not_status, hb]

/-- A channel-voice status byte outside a system block. -/
theorem parse_voice {s : State} {b : Byte} (hv : isChannelVoice b = true) (hb : s.parser.st ≠ .ignoringSystemBlock) :
    parse b s = cvStatus b s := by
  simp [parse, parseStatus, not_realTime_of_voice hv, isStatus_of_voice hv, hv, hb]

/-- With nothing collected there is nothing to abandon. -/
theorem abandon_empty {s : State} (h : s.parser.accLen = 0) : abandon s = s := by simp [abandon, h]

/-- Under running status with nothing collected, a data byte does what it does right after the status byte: `RESUME` loads
what `CV_STATUS` of the running status loads (spec/41_parser.md R121, R145). -/
theorem dataResume_eq {s : State} (b : Byte) (hv : s.parser.rsValid = true) (h0 : s.parser.accLen = 0) :
    dataResume b s = dataFirst b (cvStatus s.parser.rsStatus s) := by
  simp only [dataResume, cvStatus, abandon_empty h0, ← hv]

theorem pollFree_cvStatus (b : Byte) (s : State) : pollFree (cvStatus b s) = pollFree s := by
  simp only [pollFree, cvStatus, abandon_seq, (abandon_frame s).active]

/-- Settles O35: both runs end in `DATA1` of the byte, on the state that `CV_STATUS` of the running status gives. -/
theorem runningStatusExpands : Obligations.RunningStatusExpands := by
  intro s v hf hinv hidle hrs
  have hb : s.parser.st ≠ .ignoringSystemBlock := by simp [hidle]
  have h0 : s.parser.accLen = 0 := (hinv.idle hidle).1
  have hv : isChannelVoice s.parser.rsStatus = true := by simpa [isChannelVoice] using hinv.running hrs
  have hst : (cvStatus s.parser.rsStatus s).parser.st = .collectingData1 := by rw [cvStatus_parser]
  refine ⟨dataFirst (dataByte v) (cvStatus s.parser.rsStatus s), ?_, ?_⟩
  · rw [runInstrs_singleton, exec_parse_free _ hf, parse_dataByte v hb, ← dataResume_eq _ hrs h0]
    simp [parseData, hidle, hrs]
  · rw [runInstrs_cons (exec_parse_free _ hf), parse_voice hv hb, runInstrs_singleton,
      exec_parse_free _ ((pollFree_cvStatus _ s).trans hf), parse_dataByte v (by simp [hst])]
    simp [parseData, hst]

/-! ### A system block (spec/30_encoding.md R89) -/

/-- What is abandoned is recorded, and nothing else changes (spec/41_parser.md R121, R130). -/
theorem abandon_eq (s : State) :
    abandon s = { s with out := { s.out with events := s.out.events ++ abandonedEvents s.parser } } := by
  unfold abandon abandonedEvents
  split <;> simp_all [raise]

theorem sysEmpty_eq (st : ParserState) (s : State) :
    sysEmpty st s = { s with
      parser := { s.parser with rsValid := false, accLen := 0, accNeed := 0, st := st }
      out := { s.out with events := s.out.events ++ abandonedEvents s.parser } } := by
  simp only [sysEmpty, sysCommon, abandon_eq]

/-- `F0` outside a block enters one (spec/41_parser.md R131). -/
theorem parse_F0 {s : State} (hb : s.parser.st ≠ .ignoringSystemBlock) :
    parse 0xF0#8 s = sysEmpty .ignoringSystemBlock s := by
  rw [← statusByRule_parse (by decide) (by decide) (by decide), statusByRule, if_neg hb]
  rfl

/-- A byte in a block that neither ends nor aborts it is recorded and discarded (spec/41_parser.md R140). -/
theorem parse_inBlock {s : State} {b : Byte} (hb : s.parser.st = .ignoringSystemBlock)
    (h : b < 0x80#8 ∨ s.config.sysexAborts = false ∧ b < 0xF7#8) : parse b s = sysexDiscard b s := by
  have hlt : b < 0xF7#8 := h.elim (fun hd => by bv_omega) (·.2)
  have hr : isRealTime b = false := decide_eq_false (by bv_omega)
  have h7 : b ≠ 0xF7#8 := by bv_omega
  have ha : (s.config.sysexAborts && isStatus b) = false := by
    rcases h with hd | ⟨ha, -⟩
    · simp [isStatus, hd]
    · simp [ha]
  simp [parse, inBlock, hb, hr, h7, ha]

/-- `F7` in a block ends it (spec/41_parser.md R140). -/
theorem parse_F7 {s : State} (hb : s.parser.st = .ignoringSystemBlock) : parse 0xF7#8 s = leaveBlock s := by
  rw [← terminator_parse, if_pos hb]

/-- In a block, bytes that neither end nor abort it and then the terminator leave one event for each of those bytes. -/
theorem runInstrs_block {s : State} {bs : List Byte} (hf : pollFree s = true) (hb : s.parser.st = .ignoringSystemBlock)
    (h : ∀ b ∈ bs, b < 0x80#8 ∨ s.config.sysexAborts = false ∧ b < 0xF7#8) :
    runInstrs (bs.map .parse ++ [.parse 0xF7#8]) s =
      .next (leaveBlock { s with out := { s.out with events := s.out.events ++ bs.map .sysexDiscard } }) := by
  induction bs generalizing s with
  | nil => simp [runInstrs_singleton, exec_parse_free _ hf, parse_F7 hb]
  | cons b bs ih =>
    obtain ⟨h1, hrest⟩ := List.forall_mem_cons.1 h
    rw [List.map_cons, List.cons_append, runInstrs_cons (exec_parse_free b hf), parse_inBlock hb h1,
      ih (s := sysexDiscard b s) hf hb hrest]
    simp [sysexDiscard, raise]

/-- Settles O37: `F0` enters the block, each byte of it leaves one event, and `F7` ends it. -/
theorem sysexIsOpaque : Obligations.SysexIsOpaque := by
  intro s bs hf hb hbs
  have hblock := runInstrs_block (s := sysEmpty .ignoringSystemBlock s) (bs := bs) (by rw [sysEmpty_eq]; exact hf)
    (by rw [sysEmpty_parser]) (by rw [sysEmpty_eq]; exact hbs)
  rw [List.cons_append, runInstrs_cons (exec_parse_free _ hf), parse_F0 hb, hblock]
  simp [sysEmpty_eq, leaveBlock]

end Sys2Proof.Machine

/-! SUPPORT AND PROOFS. The family 40_ring_buffer: `PUSH` and `POP` on the ring (spec/40_ring_buffer.md R110, R112), the
overflow test (R116), and `DRAIN` (R113). -/

namespace Sys2Proof.Machine

open Sys2Proof

/-! ### `PUSH` and `POP` at the two ends of the range -/

theorem ringPush_of_full {s : State} (b : Byte) (hf : ringFull s = true) :
    ringPush b s = raise (.ringOverflow b) { s with ring := { s.ring with overflow := s.ring.overflow + 1#32 } } := by
  simp [ringPush, hf]

theorem exec_pop_empty {s : State} (hp : pollFree s = true) (he : ringEmpty s = true) :
    exec .pop s = .next (respond (.popped none) s) := by
  simp [exec, execPop, onPoll_free hp, ringPop, he]

/-- Settles O14: the two branches of `PUSH`, and in the second the laws of the byte storage. -/
theorem pushStoresOrCounts : Obligations.PushStoresOrCounts := by
  refine fun s b h ha => ⟨fun hfull => ?_, fun hroom => ?_⟩
  · rw [exec_push_active b ha, ringPush_of_full b (beq_iff_eq.2 hfull)]
    rfl
  · refine ⟨s.ring.mem.write (ringIndex s s.ring.wr) b, ?_, Memory.wf_write h.wf, ?_, fun a hne => ?_⟩
    · rw [exec_push_active b ha, ringPush_of_not_full b (beq_eq_false_iff_ne.2 hroom)]
      rfl
    · rw [Memory.read_write h.wf, if_pos rfl]
    · rw [Memory.read_write h.wf, if_neg hne]

/-- Settles O15: the two branches of `POP`. -/
theorem popTakesTheOldest : Obligations.PopTakesTheOldest := fun _ hp =>
  ⟨fun he => exec_pop_empty hp (beq_iff_eq.2 he.symm), fun hne => exec_pop_nonempty hp (beq_eq_false_iff_ne.2 (Ne.symm hne))⟩

/-! ### Many pushes -/

/-- The state after a `PUSH` of each byte in turn, the data path being active (`runInstrs_push`). -/
def pushAll (bs : List Byte) (s : State) : State := bs.foldl (fun t b => ringPush b t) s

theorem pushAll_append (bs xs : List Byte) (s : State) : pushAll (bs ++ xs) s = pushAll xs (pushAll bs s) :=
  List.foldl_append

theorem ringPush_config (b : Byte) (s : State) : (ringPush b s).config = s.config := by
  rcases ringPush_cases b s with ⟨-, he⟩ | ⟨-, he⟩ <;> simp [he]

theorem pollFree_ringPush (b : Byte) (s : State) : pollFree (ringPush b s) = pollFree s := by
  rcases ringPush_cases b s with ⟨-, he⟩ | ⟨-, he⟩ <;> simp [he, pollFree]

theorem pollFree_pushAll (bs : List Byte) (s : State) : pollFree (pushAll bs s) = pollFree s := by
  induction bs generalizing s with
  | nil => rfl
  | cons b bs ih => exact (ih _).trans (pollFree_ringPush b s)

theorem runInstrs_push (bs : List Byte) {s : State} (hp : pollFree s = true) :
    runInstrs (bs.map .push) s = .next (pushAll bs s) := by
  induction bs generalizing s with
  | nil => rfl
  | cons b bs ih =>
    rw [List.map_cons, runInstrs_cons (exec_push_active b (pollFree_iff.1 hp).1), ih ((pollFree_ringPush b s).trans hp)]
    rfl

/-- As many pushes as there is room for are all accepted. -/
theorem pushAll_accepted (bs : List Byte) {s : State} (h : RingInv s) (hroom : ringCount s + bs.length < ringCap s) :
    RingInv (pushAll bs s) ∧ ringHeld (pushAll bs s) = ringHeld s ++ bs ∧
      (pushAll bs s).ring.overflow = s.ring.overflow ∧ (pushAll bs s).config = s.config := by
  induction bs generalizing s with
  | nil => exact ⟨h, (List.append_nil _).symm, rfl, rfl⟩
  | cons b bs ih =>
    rw [List.length_cons] at hroom
    have hf : ringFull s = false := by
      have := mt (ringFull_iff_count h).1 (by omega)
      simpa using this
    have hcap : ringCap (ringPush b s) = ringCap s := by rw [ringCap, ringCap, ringPush_config]
    obtain ⟨hinv, hheld, hover, hconf⟩ := ih (h.ringPush b) (by rw [ringCount_ringPush h b hf, hcap]; omega)
    refine ⟨hinv, ?_, hover.trans ?_, hconf.trans (ringPush_config b s)⟩
    · rw [ringHeld_ringPush h b hf, List.append_assoc] at hheld
      exact hheld
    · rw [ringPush_of_not_full b hf]

/-- On a full ring every push is rejected and counted. -/
theorem pushAll_rejected (xs : List Byte) {s : State} (h : RingInv s) (hf : ringFull s = true) :
    RingInv (pushAll xs s) ∧ ringHeld (pushAll xs s) = ringHeld s ∧
      (pushAll xs s).ring.overflow = s.ring.overflow + BitVec.ofNat 32 xs.length := by
  induction xs generalizing s with
  | nil => exact ⟨h, rfl, (BitVec.add_zero _).symm⟩
  | cons x xs ih =>
    have hpush := ringPush_of_full x hf
    obtain ⟨hinv, hheld, hover⟩ := ih (h.ringPush x) (by rw [hpush]; exact hf)
    refine ⟨hinv, hheld.trans (ringHeld_ringPush_full x hf), hover.trans ?_⟩
    rw [hpush, List.length_cons, Nat.add_comm, BitVec.ofNat_add, ← BitVec.add_assoc]
    rfl

/-! ### Many pops -/

theorem ringEmpty_eq_false_of_lt {s : State} (h : RingInv s) {k : Nat} (hk : k < (ringHeld s).length) :
    ringEmpty s = false := by
  rw [ringHeld_length] at hk
  exact Bool.eq_false_iff.2 (mt (ringEmpty_iff_count h).1 (by omega))

/-- The `(k+1)`-th `POP` in a row answers the `k`-th held byte. -/
theorem runInstrs_pop (k : Nat) {s : State} (h : RingInv s) (hp : pollFree s = true) (hk : k < (ringHeld s).length) :
    ∃ u, runInstrs (List.replicate (k + 1) .pop) s = .next u ∧ u.out.resp = .popped (some (ringHeld s)[k]) := by
  induction k generalizing s with
  | zero =>
    have he := ringEmpty_eq_false_of_lt h hk
    exact ⟨_, (runInstrs_singleton _ s).trans (exec_pop_nonempty hp he), by simp [ringHeld_advanceRd h he]⟩
  | succ k ih =>
    have he := ringEmpty_eq_false_of_lt h hk
    have hheld := ringHeld_advanceRd h he
    rw [hheld, List.length_cons] at hk
    rw [List.replicate_succ, runInstrs_cons (exec_pop_nonempty hp he)]
    obtain ⟨u, hrun, hresp⟩ := ih (s := respond (.popped (some (ringRead s s.ring.rd)))
      { s with ring := { s.ring with rd := ringNext s s.ring.rd } })
      (h.advanceRd.congr rfl rfl) hp (Nat.lt_of_succ_lt_succ hk)
    refine ⟨u, hrun, hresp.trans ?_⟩
    simp only [hheld, List.getElem_cons_succ]
    rfl

/-- Settles O18: the first `RB_CAP - 1` pushes fill the ring, the others are counted, and the pops go through the held
bytes. -/
theorem fullRingKeepsOrder : Obligations.FullRingKeepsOrder := by
  intro s bs xs h hp he hlen
  have hcount : ringCount s = 0 := (ringEmpty_iff_count h).1 he
  have hnil : ringHeld s = [] := List.eq_nil_of_length_eq_zero ((ringHeld_length s).trans hcount)
  replace hlen : bs.length = ringCap s - 1 := hlen
  have hpos := ringCap_pos s
  obtain ⟨hinv, hheld, hover, hconf⟩ := pushAll_accepted bs h (by omega)
  rw [hnil, List.nil_append] at hheld
  have hfull : ringFull (pushAll bs s) = true := by
    rw [ringFull_iff_count hinv, ← ringHeld_length, hheld, hlen, ringCap, ringCap, hconf]
  obtain ⟨hinv', hheld', hover'⟩ := pushAll_rejected xs hinv hfull
  rw [hheld] at hheld'
  rw [hover] at hover'
  refine ⟨pushAll xs (pushAll bs s), ?_, hheld', hover', fun k hk => ?_⟩
  · rw [← List.map_append, runInstrs_push _ hp, pushAll_append]
  · have hp' : pollFree (pushAll xs (pushAll bs s)) = true := by rw [pollFree_pushAll, pollFree_pushAll, hp]
    simpa only [hheld'] using runInstrs_pop k hinv' hp' (by rw [hheld']; exact hk)

/-! ### The parser does not read the waiting calls (spec/41_parser.md R120) -/

/-- The state with other calls waiting. -/
def setCalls (cs : List Call) (s : State) : State := { s with seq := { s.seq with calls := cs } }

section

variable (cs : List Call) (s : State) (m : Message) (b : Byte)

theorem setCalls_self {cs : List Call} {s : State} (h : s.seq.calls = cs) : setCalls cs s = s := by
  subst h
  rfl

theorem setCalls_config : (setCalls cs s).config = s.config := rfl

theorem setCalls_parser : (setCalls cs s).parser = s.parser := rfl

theorem setCalls_setParser (p : Parser) : { setCalls cs s with parser := p } = setCalls cs { s with parser := p } := rfl

theorem mirror_setCalls : mirror m (setCalls cs s) = setCalls cs (mirror m s) := by
  unfold mirror
  rw [apply_ite (setCalls cs)]
  rfl

theorem route_setCalls : route m (setCalls cs s) = setCalls cs (route m s) := by
  have htarget : mapTarget m (setCalls cs s) = mapTarget m s := rfl
  unfold route
  rw [htarget]
  split
  · cases mapTarget m s <;> rfl
  · rfl

theorem deliver_setCalls : deliver m (setCalls cs s) = setCalls cs (deliver m s) := by
  unfold deliver onParserMessage
  rw [mirror_setCalls, route_setCalls]
  generalize route m (mirror m s) = t
  dsimp only [setCalls]
  split <;> rfl

theorem complete_setCalls : complete (setCalls cs s) = setCalls cs (complete s) := by
  unfold complete
  rw [setCalls_parser, setCalls_setParser, deliver_setCalls]

theorem abandon_setCalls : abandon (setCalls cs s) = setCalls cs (abandon s) := by
  unfold abandon
  rw [apply_ite (setCalls cs)]
  rfl

theorem cvStatus_setCalls : cvStatus b (setCalls cs s) = setCalls cs (cvStatus b s) := by
  unfold cvStatus
  rw [abandon_setCalls]
  rfl

theorem sysCommon_setCalls : sysCommon (setCalls cs s) = setCalls cs (sysCommon s) := by
  unfold sysCommon
  rw [abandon_setCalls]
  rfl

theorem sysLoad_setCalls (need : Nat) : sysLoad b need (setCalls cs s) = setCalls cs (sysLoad b need s) := by
  unfold sysLoad
  rw [sysCommon_setCalls]
  rfl

theorem sysEmpty_setCalls (st : ParserState) : sysEmpty st (setCalls cs s) = setCalls cs (sysEmpty st s) := by
  unfold sysEmpty
  rw [sysCommon_setCalls]
  rfl

theorem sysUndefined_setCalls : sysUndefined b (setCalls cs s) = setCalls cs (sysUndefined b s) := by
  unfold sysUndefined
  rw [sysEmpty_setCalls]
  rfl

theorem sysTune_setCalls : sysTune (setCalls cs s) = setCalls cs (sysTune s) := by
  unfold sysTune
  rw [sysEmpty_setCalls, deliver_setCalls]

theorem parseStatus_setCalls : parseStatus b (setCalls cs s) = setCalls cs (parseStatus b s) := by
  unfold parseStatus
  split
  · exact cvStatus_setCalls cs s b
  · unfold sysStatus
    split
    · exact sysEmpty_setCalls cs s _
    · exact sysLoad_setCalls cs s _ _
    · exact sysLoad_setCalls cs s _ _
    · exact sysLoad_setCalls cs s _ _
    · exact sysUndefined_setCalls cs s _
    · exact sysUndefined_setCalls cs s _
    · exact sysTune_setCalls cs s
    · exact sysUndefined_setCalls cs s _

theorem inBlock_setCalls : inBlock b (setCalls cs s) = setCalls cs (inBlock b s) := by
  unfold inBlock
  rw [setCalls_config]
  split
  · rfl
  · split
    · exact parseStatus_setCalls cs (leaveBlock s) b
    · rfl

theorem dataFirst_setCalls : dataFirst b (setCalls cs s) = setCalls cs (dataFirst b s) := by
  unfold dataFirst
  dsimp only
  rw [setCalls_parser]
  split
  · rw [setCalls_setParser, complete_setCalls]
  · rfl

theorem dataSecond_setCalls : dataSecond b (setCalls cs s) = setCalls cs (dataSecond b s) := by
  unfold dataSecond
  rw [setCalls_parser, setCalls_setParser, complete_setCalls]

theorem dataResume_setCalls : dataResume b (setCalls cs s) = setCalls cs (dataResume b s) := by
  unfold dataResume
  rw [setCalls_parser, setCalls_setParser, dataFirst_setCalls]

theorem parseData_setCalls : parseData b (setCalls cs s) = setCalls cs (parseData b s) := by
  unfold parseData
  rw [setCalls_parser]
  split
  · exact dataFirst_setCalls cs s b
  · exact dataSecond_setCalls cs s b
  · rfl
  · split
    · exact dataResume_setCalls cs s b
    · rfl

theorem parse_setCalls : parse b (setCalls cs s) = setCalls cs (parse b s) := by
  unfold parse
  rw [setCalls_parser]
  split
  · exact deliver_setCalls cs s _
  · split
    · exact inBlock_setCalls cs s b
    · split
      · exact parseStatus_setCalls cs s b
      · exact parseData_setCalls cs s b

end

/-! ### One iteration of `DRAIN` -/

theorem ringStep_nonempty {s : State} (he : ringEmpty s = false) :
    ringStep s = parse (ringRead s s.ring.rd) { s with ring := { s.ring with rd := ringNext s s.ring.rd } } := by
  simp [ringStep, ringPop, he]

theorem serveCall_drain_empty {s : State} {rest : List Call} (hc : s.seq.calls = .drain :: rest)
    (he : ringEmpty s = true) : serveCall s = returnCall rest s := by
  simp [serveCall, hc, he]

/-- An iteration that finds a byte is a `POP` and a `PARSE` as a free poll context makes them; the call stays the oldest. -/
theorem serveCall_drain_nonempty {s : State} {rest : List Call} (hc : s.seq.calls = .drain :: rest)
    (he : ringEmpty s = false) :
    serveCall s = setCalls (.drain :: rest) (parse (ringRead s s.ring.rd)
      (setCalls [] { s with ring := { s.ring with rd := ringNext s s.ring.rd } })) := by
  calc
    serveCall s = ringStep s := by simp [serveCall, hc, he]
    _ = _ := by
      rw [ringStep_nonempty he, ← parse_setCalls, ← hc]
      rfl

section

variable {s : State} (hc : s.seq.calls = [])
include hc

theorem beginCall_drain_empty (he : ringEmpty s = true) :
    beginCall .drain s = { s with seq := { s.seq with flushT0 := none } } :=
  (serveCall_drain_empty (s := { s with seq := { s.seq with calls := [.drain], flushT0 := none } }) rfl he).trans
    (setCalls_self (s := { s with seq := { s.seq with flushT0 := none } }) hc)

theorem beginCall_drain_nonempty (he : ringEmpty s = false) :
    beginCall .drain s = setCalls [.drain] (parse (ringRead s s.ring.rd)
      { s with ring := { s.ring with rd := ringNext s s.ring.rd }, seq := { s.seq with flushT0 := none } }) := by
  have hself := setCalls_self (s :=
    { s with ring := { s.ring with rd := ringNext s s.ring.rd }, seq := { s.seq with flushT0 := none } }) hc
  have hstep := serveCall_drain_nonempty (s := { s with seq := { s.seq with calls := [.drain], flushT0 := none } }) rfl he
  exact hstep.trans (congrArg (fun t => setCalls [.drain] (parse (ringRead s s.ring.rd) t)) hself)

end

theorem exec_poll_call {s : State} (ha : s.active = true) (ht : s.seq.txPend = []) (hc : s.seq.calls ≠ []) :
    exec .poll s = .next (serveCall s) := by
  simp [exec, execPoll, pollStep, ha, ht, hc]

/-- Settles O59: the call is the oldest one at its first step and at the later ones, and each step of it is an iteration. -/
theorem drainParsesUntilEmpty : Obligations.DrainParsesUntilEmpty := by
  refine ⟨fun s hp => ?_, fun s rest ha ht hc => ?_⟩
  · have hcalls := (pollFree_iff.1 hp).2.2
    refine ⟨fun he => ?_, fun hne => ⟨_, exec_parse_free _ hp, ?_⟩⟩
    · exact (makeCall_free hp).trans (congrArg _ (beginCall_drain_empty hcalls (beq_iff_eq.2 he)))
    · exact (makeCall_free hp).trans (congrArg _ (beginCall_drain_nonempty hcalls (beq_eq_false_iff_ne.2 hne)))
  · have hpoll := exec_poll_call ha ht (hc ▸ List.cons_ne_nil _ _)
    refine ⟨fun he => ?_, fun hne => ⟨_, exec_parse_free _ (pollFree_iff.2 ⟨ha, ht, rfl⟩), ?_⟩⟩
    · rw [hpoll, serveCall_drain_empty hc (beq_iff_eq.2 he)]
      rfl
    · rw [hpoll, serveCall_drain_nonempty hc (beq_eq_false_iff_ne.2 hne)]
      rfl

end Sys2Proof.Machine

/-! SUPPORT AND PROOFS. The family 41_parser: what the mailbox may influence (R152), the status bytes (R121, R129 to R140),
the data bytes (R145 to R149), resynchronisation (R162), `DELIVER` (R150) and `MBX_TAKE` (R152). -/

namespace Sys2Proof.Machine

open Sys2Proof

/-! ### The mailbox, the event log and the answer latch are not read (spec/41_parser.md R152)

Only `DELIVER` and `MBX_TAKE` read the mailbox, and what they compute from it goes back into the mailbox, the event log and
the latch (`deliver_unread`, `mbxTake_unread`). Every other operation branches on the rest of the state alone. -/

/-- The state with other values in the three fields that the data path does not read. -/
def setUnread (x : Mailbox) (es : List Event) (r : Response) (s : State) : State :=
  { s with mbx := x, out := { s.out with events := es, resp := r } }

theorem setUnread_same (x : Mailbox) (es : List Event) (r : Response) (s : State) :
    SameButMailbox s (setUnread x es r s) := by
  constructor <;> rfl

/-- What `DELIVER` adds to the listener (R150): the mailbox holds the message, and an unread one is recorded. -/
theorem deliver_eq (m : Message) (s : State) :
    deliver m s = { onParserMessage m s with
      mbx := { full := true, msg := m }
      out := { (onParserMessage m s).out with events := (onParserMessage m s).out.events ++ overwriteEvents s } } := by
  have hmbx := (onParserMessage_frame m s).mbx
  unfold deliver overwriteEvents
  simp only [hmbx]
  split <;> simp [raise]

namespace SameButMailbox

theorem raise_unread (e : Event) (s : State) : SameButMailbox s (raise e s) := setUnread_same _ _ _ s

theorem respond_unread (r : Response) (s : State) : SameButMailbox s (respond r s) := setUnread_same _ _ _ s

theorem deliver_unread (m : Message) (s : State) : SameButMailbox (onParserMessage m s) (deliver m s) := by
  rw [deliver_eq]
  exact setUnread_same _ _ _ _

theorem mbxTake_unread (s : State) : SameButMailbox s (mbxTake s) := by
  unfold mbxTake
  split <;> exact setUnread_same _ _ _ s

theorem abandon_unread (s : State) : SameButMailbox s (abandon s) := by
  rw [abandon_eq]
  exact setUnread_same _ _ _ s

section

variable {s t u v : State} (h : SameButMailbox s t)
include h

theorem exists_setUnread : ∃ x es r, t = setUnread x es r s :=
  ⟨t.mbx, t.out.events, t.out.resp, by
    simp only [setUnread, h.config, h.ring, h.parser, h.chmap, h.rtDrop, h.link, h.seq, h.active, h.initFail, h.env,
      h.hostOut, h.linkOut, h.pulseOut, h.sent]⟩

/-- An operation that answers alike on any two such states does so on these. -/
theorem of_setUnread {f : State → State} (hf : ∀ x es r, SameButMailbox (f s) (f (setUnread x es r s))) :
    SameButMailbox (f s) (f t) := by
  obtain ⟨x, es, r, rfl⟩ := h.exists_setUnread
  exact hf x es r

/-- Two states that differ only there still do after each has changed only there. -/
theorem after_unread (hu : SameButMailbox s u) (hv : SameButMailbox t v) : SameButMailbox u v := by
  obtain ⟨_, _, _, rfl⟩ := h.exists_setUnread
  obtain ⟨_, _, _, rfl⟩ := hu.exists_setUnread
  obtain ⟨_, _, _, rfl⟩ := hv.exists_setUnread
  exact setUnread_same _ _ _ _

/-! What the conditions of the operations read. -/

theorem pollFree_eq : pollFree s = pollFree t := by simp only [pollFree, h.active, h.seq]

theorem ringEmpty_eq : ringEmpty s = ringEmpty t := by simp only [ringEmpty, h.ring]

theorem ringFull_eq : ringFull s = ringFull t := by simp only [ringFull, ringNext, ringCap, h.ring, h.config]

theorem ringIndex_eq (x : Nat) : ringIndex s x = ringIndex t x := by simp only [ringIndex, ringCap, h.config]

/-- The byte `POP` takes. -/
theorem ringFront_eq : ringRead s s.ring.rd = ringRead t t.ring.rd := by simp only [ringRead, h.ringIndex_eq, h.ring]

theorem ringNext_eq (x : Nat) : ringNext s x = ringNext t x := by simp only [ringNext, ringCap, h.config]

theorem mapTarget_eq (m : Message) : mapTarget m s = mapTarget m t := by
  unfold mapTarget mapEntry
  rw [h.chmap]

theorem sendReady_eq : sendReady s = sendReady t := by simp only [sendReady, gapElapsed, h.link, h.env, h.config]

theorem hwqEmpty_eq : hwqEmpty s = hwqEmpty t := by simp only [hwqEmpty, h.link]

theorem settled_eq (t0 : Time) : settled s t0 = settled t t0 := by simp only [settled, h.config, h.env]

/-! One field written. -/

theorem setParser {p p' : Parser} (he : p = p') : SameButMailbox { s with parser := p } { t with parser := p' } :=
  he ▸ h.of_setUnread (f := ({ · with parser := p })) fun _ _ _ => by constructor <;> rfl

theorem setRing {x x' : Ring} (he : x = x') : SameButMailbox { s with ring := x } { t with ring := x' } :=
  he ▸ h.of_setUnread (f := ({ · with ring := x })) fun _ _ _ => by constructor <;> rfl

theorem setSeq {q q' : Sequencer} (he : q = q') : SameButMailbox { s with seq := q } { t with seq := q' } :=
  he ▸ h.of_setUnread (f := ({ · with seq := q })) fun _ _ _ => by constructor <;> rfl

theorem setEnv {e e' : Environment} (he : e = e') : SameButMailbox { s with env := e } { t with env := e' } :=
  he ▸ h.of_setUnread (f := ({ · with env := e })) fun _ _ _ => by constructor <;> rfl

theorem setChmap {c c' : ChannelMap} (he : c = c') : SameButMailbox { s with chmap := c } { t with chmap := c' } :=
  he ▸ h.of_setUnread (f := ({ · with chmap := c })) fun _ _ _ => by constructor <;> rfl

/-! Each operation, from two such states. -/

theorem after_raise (e : Event) : SameButMailbox (raise e s) (raise e t) :=
  h.after_unread (raise_unread e s) (raise_unread e t)

theorem after_respond (r q : Response) : SameButMailbox (respond r s) (respond q t) :=
  h.after_unread (respond_unread r s) (respond_unread q t)

theorem after_policyDrop (m : Message) : SameButMailbox (policyDrop m s) (policyDrop m t) :=
  h.of_setUnread fun _ _ _ => by constructor <;> rfl

theorem after_forward (m : Message) (e : Fin nInt) : SameButMailbox (forward m e s) (forward m e t) :=
  h.of_setUnread fun _ _ _ => by constructor <;> rfl

theorem after_pulse : SameButMailbox (pulse s) (pulse t) :=
  h.of_setUnread fun _ _ _ => by constructor <;> rfl

theorem after_mirror (m : Message) : SameButMailbox (mirror m s) (mirror m t) := by
  unfold mirror
  rw [← h.env]
  split
  · obtain ⟨_, _, _, rfl⟩ := h.exists_setUnread
    constructor <;> rfl
  · exact h.after_raise _

theorem after_route (m : Message) : SameButMailbox (route m s) (route m t) := by
  unfold route
  rw [← h.mapTarget_eq]
  split
  · split
    · exact h.after_forward m _
    · exact h.after_policyDrop m
  · exact h

theorem after_onParserMessage (m : Message) : SameButMailbox (onParserMessage m s) (onParserMessage m t) :=
  (h.after_mirror m).after_route m

theorem after_hostPacket (p : Packet) : SameButMailbox (hostPacket p s) (hostPacket p t) := by
  unfold hostPacket hostMessage
  split
  · exact h.after_raise _
  · exact h.after_route _

theorem after_deliver (m : Message) : SameButMailbox (deliver m s) (deliver m t) :=
  (h.after_onParserMessage m).after_unread (deliver_unread m s) (deliver_unread m t)

theorem after_complete : SameButMailbox (complete s) (complete t) := by
  unfold complete
  rw [← h.parser]
  exact (h.setParser rfl).after_deliver _

theorem after_abandon : SameButMailbox (abandon s) (abandon t) := h.after_unread (abandon_unread s) (abandon_unread t)

theorem after_cvStatus (b : Byte) : SameButMailbox (cvStatus b s) (cvStatus b t) := by
  have ha := h.after_abandon
  exact ha.setParser (by rw [ha.parser])

theorem after_sysCommon : SameButMailbox (sysCommon s) (sysCommon t) := by
  have ha := h.after_abandon
  exact ha.setParser (by rw [ha.parser])

theorem after_sysLoad (b : Byte) (n : Nat) : SameButMailbox (sysLoad b n s) (sysLoad b n t) := by
  have hc := h.after_sysCommon
  exact hc.setParser (by rw [hc.parser])

theorem after_sysEmpty (st : ParserState) : SameButMailbox (sysEmpty st s) (sysEmpty st t) := by
  have hc := h.after_sysCommon
  exact hc.setParser (by rw [hc.parser])

theorem after_sysUndefined (b : Byte) : SameButMailbox (sysUndefined b s) (sysUndefined b t) :=
  (h.after_sysEmpty _).after_raise _

theorem after_sysStatus (b : Byte) : SameButMailbox (sysStatus b s) (sysStatus b t) := by
  unfold sysStatus
  split
  · exact h.after_sysEmpty _
  · exact h.after_sysLoad _ _
  · exact h.after_sysLoad _ _
  · exact h.after_sysLoad _ _
  · exact h.after_sysUndefined _
  · exact h.after_sysUndefined _
  · exact (h.after_sysEmpty _).after_deliver _
  · exact h.after_sysUndefined _

theorem after_parseStatus (b : Byte) : SameButMailbox (parseStatus b s) (parseStatus b t) := by
  unfold parseStatus
  split
  · exact h.after_cvStatus b
  · exact h.after_sysStatus b

theorem after_leaveBlock : SameButMailbox (leaveBlock s) (leaveBlock t) :=
  h.setParser (by rw [h.parser])

theorem after_inBlock (b : Byte) : SameButMailbox (inBlock b s) (inBlock b t) := by
  unfold inBlock
  rw [← h.config]
  split
  · exact h.after_leaveBlock
  · split
    · exact h.after_leaveBlock.after_parseStatus b
    · exact h.after_raise _

theorem after_dataFirst (b : Byte) : SameButMailbox (dataFirst b s) (dataFirst b t) := by
  unfold dataFirst
  dsimp only
  rw [← h.parser]
  split
  · exact (h.setParser rfl).after_complete
  · exact h.setParser rfl

theorem after_dataSecond (b : Byte) : SameButMailbox (dataSecond b s) (dataSecond b t) :=
  (h.setParser (by rw [h.parser])).after_complete

theorem after_dataResume (b : Byte) : SameButMailbox (dataResume b s) (dataResume b t) :=
  (h.setParser (by rw [h.parser])).after_dataFirst b

theorem after_parseData (b : Byte) : SameButMailbox (parseData b s) (parseData b t) := by
  unfold parseData
  rw [← h.parser]
  split
  · exact h.after_dataFirst b
  · exact h.after_dataSecond b
  · exact h.after_raise _
  · split
    · exact h.after_dataResume b
    · exact h.after_raise _

theorem after_parse (b : Byte) : SameButMailbox (parse b s) (parse b t) := by
  unfold parse
  rw [← h.parser]
  split
  · exact h.after_deliver _
  · split
    · exact h.after_inBlock b
    · split
      · exact h.after_parseStatus b
      · exact h.after_parseData b

theorem after_advanceRd :
    SameButMailbox { s with ring := { s.ring with rd := ringNext s s.ring.rd } }
      { t with ring := { t.ring with rd := ringNext t t.ring.rd } } :=
  h.setRing (by rw [h.ringNext_eq, h.ring])

theorem after_ringStep : SameButMailbox (ringStep s) (ringStep t) := by
  cases he : ringEmpty s
  · rw [ringStep_nonempty he, ringStep_nonempty (h.ringEmpty_eq ▸ he), ← h.ringFront_eq]
    exact h.after_advanceRd.after_parse _
  · simpa [ringStep, ringPop, he, ← h.ringEmpty_eq] using h

theorem after_ringPush (b : Byte) : SameButMailbox (ringPush b s) (ringPush b t) := by
  unfold ringPush
  rw [← h.ringFull_eq]
  split
  · exact (h.setRing (by rw [h.ring])).after_raise _
  · exact h.setRing (by rw [h.ringIndex_eq, h.ringNext_eq, h.ring])

theorem after_enqueue (b : Byte) : SameButMailbox (enqueue b s) (enqueue b t) :=
  h.of_setUnread fun _ _ _ => by constructor <;> rfl

theorem after_returnCall (rest : List Call) : SameButMailbox (returnCall rest s) (returnCall rest t) :=
  h.setSeq (by rw [h.seq])

theorem after_setPhase (p : Phase) : SameButMailbox (setPhase p s) (setPhase p t) :=
  h.setSeq (by rw [h.seq])

theorem after_mbxTake : SameButMailbox (mbxTake s) (mbxTake t) := h.after_unread (mbxTake_unread s) (mbxTake_unread t)

theorem after_dropSent (rest : List Byte) : SameButMailbox (dropSent rest s) (dropSent rest t) := by
  unfold dropSent
  dsimp only
  split
  · exact (h.setSeq (by rw [h.seq])).after_pulse
  · exact h.setSeq (by rw [h.seq])

theorem after_sendStep : SameButMailbox (sendStep s) (sendStep t) := by
  unfold sendStep
  rw [← h.seq, ← h.sendReady_eq]
  split
  · exact h
  · split
    · exact (h.after_enqueue _).after_dropSent _
    · exact h

theorem after_flushSettle (rest : List Call) (t0 : Time) :
    SameButMailbox (flushSettle rest t0 s) (flushSettle rest t0 t) := by
  unfold flushSettle
  rw [← h.settled_eq]
  split
  · exact (h.after_returnCall rest).after_respond _ _
  · exact h.setSeq (by rw [h.seq])

theorem after_phaseStep : SameButMailbox (phaseStep s) (phaseStep t) := by
  unfold phaseStep
  rw [← congrArg Sequencer.phase h.seq, ← congrArg Environment.hostIn h.env, ← h.ringEmpty_eq]
  split
  · split
    · exact h.after_setPhase _
    · exact h.after_ringStep
  · split
    · exact h.after_setPhase _
    · exact (h.setEnv (by rw [h.env])).after_hostPacket _

theorem after_serveCall : SameButMailbox (serveCall s) (serveCall t) := by
  unfold serveCall
  rw [← h.seq, ← h.ringEmpty_eq, ← h.sendReady_eq, ← h.hwqEmpty_eq, ← h.env]
  split
  · exact h
  · split
    · exact h.after_returnCall _
    · exact h.after_ringStep
  · exact (h.after_returnCall _).after_mbxTake
  · split
    · exact (h.after_returnCall _).after_enqueue _
    · exact h
  · split
    · exact h.after_flushSettle _ _
    · split
      · exact h.after_flushSettle _ _
      · exact h

theorem after_pollStep : SameButMailbox (pollStep s) (pollStep t) := by
  unfold pollStep
  rw [← h.seq]
  split
  · split
    · exact h.after_phaseStep
    · exact h.after_serveCall
  · exact h.after_sendStep

theorem after_beginCall (c : Call) : SameButMailbox (beginCall c s) (beginCall c t) :=
  (h.setSeq (by rw [h.seq])).after_serveCall

theorem after_linkPop : SameButMailbox (linkPop s) (linkPop t) := by
  unfold linkPop
  rw [← h.link]
  split
  · exact h
  · obtain ⟨_, _, _, rfl⟩ := h.exists_setUnread
    constructor <;> rfl

theorem after_initialise (ok : Bool) (gap : Option Time) : SameButMailbox (initialise ok gap s) (initialise ok gap t) := by
  unfold initialise
  rw [show (t.active || t.initFail) = (s.active || s.initFail) by rw [h.active, h.initFail]]
  split
  · exact h
  · obtain ⟨_, _, _, rfl⟩ := h.exists_setUnread
    split <;> constructor <;> rfl

end

end SameButMailbox

/-- Two answers of a step that agree: next states that differ only in the three fields, or the same reason to stop. -/
inductive SameOutcome : Host.Outcome State Fault Refusal → Host.Outcome State Fault Refusal → Prop
  | next {s t : State} (h : SameButMailbox s t) : SameOutcome (.next s) (.next t)
  | fault (f : Fault) : SameOutcome (.fault f) (.fault f)
  | refused (r : Refusal) : SameOutcome (.refused r) (.refused r)

section

variable {s t : State} (h : SameButMailbox s t)
include h

theorem onPoll_same {op : State → State} (hop : SameButMailbox (op s) (op t)) :
    SameOutcome (onPoll op s) (onPoll op t) := by
  unfold onPoll
  rw [← h.pollFree_eq]
  split
  · exact .next hop
  · exact .next h

theorem onMessage_same {m : Message} {op : State → State} (hop : SameButMailbox (op s) (op t)) :
    SameOutcome (onMessage m op s) (onMessage m op t) := by
  unfold onMessage
  split
  · exact onPoll_same h hop
  · exact .refused _

theorem onVoiceMessage_same {m : Message} {op : State → State} (hop : SameButMailbox (op s) (op t)) :
    SameOutcome (onVoiceMessage m op s) (onVoiceMessage m op t) := by
  unfold onVoiceMessage
  split
  · exact onPoll_same h hop
  · exact .refused _

theorem makeCall_same (c : Call) : SameOutcome (makeCall c s) (makeCall c t) := by
  unfold makeCall
  rw [← h.active, ← h.pollFree_eq]
  split
  · split
    · exact .next (h.after_beginCall c)
    · obtain ⟨_, _, _, rfl⟩ := h.exists_setUnread
      exact .next (by constructor <;> rfl)
  · exact .next h

theorem streamRow_same {i : Instr} {b : Byte} (he : encode i = some (.stream, [b])) :
    SameOutcome (exec i s) (exec i t) := by
  rw [exec_streamRow he, exec_streamRow he]
  exact onPoll_same h (h.after_parse b)

theorem packetRow_same {i : Instr} (p : Packet) (he : encode i = some (.packet, [p.p0, p.p1, p.p2, p.p3])) :
    SameOutcome (exec i s) (exec i t) := by
  rw [exec_packetRow he, exec_packetRow he]
  exact onPoll_same h (h.after_hostPacket p)

theorem exec_pop_same : SameOutcome (exec .pop s) (exec .pop t) := by
  simp only [exec, execPop]
  refine onPoll_same h ?_
  cases he : ringEmpty s
  · simpa [ringPop, he, ← h.ringEmpty_eq] using h.after_advanceRd.after_respond _ _
  · simpa [ringPop, he, ← h.ringEmpty_eq] using h.after_respond _ _

theorem exec_encode_same (m : Message) : SameOutcome (exec (.encode m) s) (exec (.encode m) t) := by
  simp only [exec, execEncode]
  split
  · exact .refused _
  · exact onMessage_same h (h.after_respond _ _)

theorem exec_decode_same (p : Packet) : SameOutcome (exec (.decode p) s) (exec (.decode p) t) := by
  simp only [exec, execDecode]
  refine onPoll_same h (SameButMailbox.after_respond ?_ _ _)
  unfold notePacket
  split
  · exact h.after_raise _
  · exact h

/-- An operation of another agent, which `active` gates. -/
theorem ifActive_same {op : State → State} (hop : SameButMailbox (op s) (op t)) :
    SameOutcome (.next (if s.active then op s else s)) (.next (if t.active then op t else t)) := by
  rw [← h.active]
  split
  · exact .next hop
  · exact .next h

/-- Every instruction answers the same. -/
theorem exec_same (i : Instr) : SameOutcome (exec i s) (exec i t) := by
  cases i
  case pop => exact exec_pop_same h
  case decode p => exact exec_decode_same h p
  case encode m => exact exec_encode_same h m
  case push b => exact ifActive_same h (h.after_ringPush b)
  case linkPop => exact ifActive_same h h.after_linkPop
  case poll => exact ifActive_same h h.after_pollStep
  case drain | mbxTake | send | flush => exact makeCall_same h _
  case parse b => exact onPoll_same h (h.after_parse b)
  case deliver m => exact onMessage_same h (h.after_deliver m)
  case onParserMessage m => exact onMessage_same h (h.after_onParserMessage m)
  case mirror m => exact onMessage_same h (h.after_mirror m)
  case route m | onHostMessage m => exact onMessage_same h (h.after_route m)
  case policyDrop m => exact onVoiceMessage_same h (h.after_policyDrop m)
  case forward m e => exact onVoiceMessage_same h (h.after_forward m e)
  case pulse => exact onPoll_same h h.after_pulse
  case mapReplace map enable => exact .next (h.setChmap rfl)
  case init ok gap => exact .next (h.after_initialise ok gap)
  case encChannelVoice m => exact onVoiceMessage_same h (h.after_respond _ _)
  case encRealTime | encSysF0 | encSysF6 | encSysF1 | encSysF3 | encSysF2 => exact onPoll_same h (h.after_respond _ _)
  case pktCin0 | pktCin1 | pktSys2 | pktSys3 | pktCin4 | pktSys1 | pktCin6 | pktCin7 | pktNoteOff | pktNoteOn
      | pktPolyPressure | pktControlChange | pktProgramChange | pktChannelPressure | pktPitchBend | pktSingleByte =>
    exact packetRow_same h ⟨_, _, _, _⟩ rfl
  all_goals exact streamRow_same h rfl

theorem advanceTime_same (d : Time) : SameOutcome (advanceTime d s) (advanceTime d t) := by
  unfold advanceTime advanceFits
  rw [← congrArg Environment.now h.env]
  split
  · exact .next (h.setEnv (by rw [h.env]))
  · exact .fault _

/-- A turn of the serial line pushes its next byte, or finds none. -/
theorem rxTurn_same : SameOutcome (takeTurn .rx s) (takeTurn .rx t) := by
  unfold takeTurn fetchSerial
  dsimp only
  rw [← congrArg Environment.serialIn h.env]
  cases s.env.serialIn
  · exact .next h
  · exact exec_same (h.setEnv (by rw [h.env])) _

theorem takeTurn_same (k : Turn) : SameOutcome (takeTurn k s) (takeTurn k t) := by
  cases k
  case poll =>
    have hpoll := exec_same h .poll
    rwa [← pollTurn_eq, ← pollTurn_eq] at hpoll
  case rx => exact rxTurn_same h
  case run i => exact exec_same h i
  case init gap =>
    show SameOutcome (exec (.init s.env.transportOk gap) s) (exec (.init t.env.transportOk gap) t)
    rw [← congrArg Environment.transportOk h.env]
    exact exec_same h _
  case advance d => exact advanceTime_same h d
  case hostArrive | hostReady | serialArrive | transportOk | transportFailed =>
    exact .next (h.setEnv (by rw [h.env]))

theorem step_same : SameOutcome (step s) (step t) := by
  unfold step
  rw [← congrArg Environment.sched h.env]
  split
  · exact takeTurn_same h _
  · exact takeTurn_same (h.setEnv (by rw [h.env])) _

end

/-- Settles O48: no operation branches on the three fields, so each turn keeps the two states alike outside them. -/
theorem mailboxHasNoEffect : Obligations.MailboxHasNoEffect := by
  intro s t h
  have hstep := step_same h
  generalize step s = a, step t = b at hstep
  cases hstep with
  | next hnext => exact hnext
  | fault => rfl
  | refused => rfl

/-! ### A byte on a free poll context, as `PARSE` or as its row -/

section

variable {s : State} {i : Instr} {b : Byte}

theorem exec_byte (hi : i = .parse b ∨ encode i = some (.stream, [b])) (hf : pollFree s = true) :
    exec i s = .next (parse b s) := by
  rcases hi with rfl | he
  · exact exec_parse_free b hf
  · rw [exec_streamRow he, onPoll_free hf]

theorem exec_deliver_free {m : Message} (hm : msgOk m = true) (hf : pollFree s = true) :
    exec (.deliver m) s = .next (deliver m s) := by
  simp only [exec, execDeliver, onMessage_ok hm, onPoll_free hf]

/-- A status byte that is not real-time, outside a block (spec/41_parser.md R120, steps 3 and 4). -/
theorem parse_status (hs : isStatus b = true) (hr : isRealTime b = false) (hb : s.parser.st ≠ .ignoringSystemBlock) :
    parse b s = parseStatus b s := by
  simp [parse, hs, hr, hb]

/-- A system-common status byte outside a block (spec/41_parser.md R130). -/
theorem parse_system (h : 0xF0#8 ≤ b ∧ b < 0xF8#8) (hb : s.parser.st ≠ .ignoringSystemBlock) :
    parse b s = sysStatus b s := by
  have hv : isChannelVoice b = false := by simp [isChannelVoice]; bv_omega
  have hs : isStatus b = true := by simp [isStatus]; bv_omega
  have hr : isRealTime b = false := by simp [isRealTime]; bv_omega
  rw [parse_status hs hr hb]
  simp [parseStatus, hv]

end

/-! ### The status rules, written out -/

theorem cvStatus_eq (b : Byte) (s : State) :
    cvStatus b s = { s with
      parser :=
        { st := .collectingData1, rsValid := true, rsStatus := b, accRaw := s.parser.accRaw.set 0 b, accLen := 1
          accNeed := needOf b }
      out := { s.out with events := s.out.events ++ abandonedEvents s.parser } } := by
  simp only [cvStatus, abandon_eq]

theorem sysLoad_eq (b : Byte) (n : Nat) (s : State) :
    sysLoad b n s = { s with
      parser :=
        { s.parser with
          st := .collectingData1, rsValid := false, accRaw := s.parser.accRaw.set 0 b, accLen := 1, accNeed := n }
      out := { s.out with events := s.out.events ++ abandonedEvents s.parser } } := by
  simp only [sysLoad, sysCommon, abandon_eq]

theorem sysUndefined_eq (b : Byte) (s : State) :
    sysUndefined b s = { s with
      parser := { s.parser with st := .idle, rsValid := false, accLen := 0, accNeed := 0 }
      out := { s.out with events := s.out.events ++ (abandonedEvents s.parser ++ [.undefinedStatus b]) } } := by
  simp only [sysUndefined, sysEmpty_eq, raise, List.append_assoc]

/-- The data bytes of the channel-voice families: one for `0xC` and `0xD`, two for the others (R122 to R128). -/
theorem needOf_join (hi ch : Nibble) (h : 0x8#4 ≤ hi ∧ hi ≤ 0xE#4) :
    needOf (joinNibbles hi ch) = if hi = 0xC#4 ∨ hi = 0xD#4 then 1 else 2 := by
  revert hi ch; decide

/-- Settles O25: the row parses its byte, which `CV_STATUS` handles, and the family gives the count. -/
theorem voiceStatusBecomesRunningStatus : Obligations.VoiceStatusBecomesRunningStatus := by
  intro s i b n ch hmem hf hb
  have hrow : encode i = some (.stream, [b]) ∧ isChannelVoice b = true ∧ needOf b = n := by
    simp only [List.mem_cons, Prod.mk.injEq, List.not_mem_nil, or_false] at hmem
    rcases hmem with ⟨rfl, rfl, rfl⟩ | ⟨rfl, rfl, rfl⟩ | ⟨rfl, rfl, rfl⟩ | ⟨rfl, rfl, rfl⟩ | ⟨rfl, rfl, rfl⟩ |
      ⟨rfl, rfl, rfl⟩ | ⟨rfl, rfl, rfl⟩ <;>
      exact ⟨rfl, isChannelVoice_join _ ch (by decide), needOf_join _ ch (by decide)⟩
  obtain ⟨he, hv, rfl⟩ := hrow
  rw [exec_byte (.inr he) hf, parse_voice hv hb, cvStatus_eq]

/-- Settles O26: each row parses its byte, which `SYS_COMMON` and the rule of its value handle. -/
theorem systemStatusClearsRunningStatus : Obligations.SystemStatusClearsRunningStatus := by
  intro s hf hb
  refine ⟨fun i b n hmem => ?_, ?_, fun i b hmem => ?_⟩
  · have hrow : encode i = some (.stream, [b]) ∧ (0xF0#8 ≤ b ∧ b < 0xF8#8) ∧ sysStatus b s = sysLoad b n s := by
      simp only [List.mem_cons, Prod.mk.injEq, List.not_mem_nil, or_false] at hmem
      rcases hmem with ⟨rfl, rfl, rfl⟩ | ⟨rfl, rfl, rfl⟩ | ⟨rfl, rfl, rfl⟩ <;> exact ⟨rfl, by decide, rfl⟩
    obtain ⟨he, hsys, hload⟩ := hrow
    rw [exec_byte (.inr he) hf, parse_system hsys hb, hload, sysLoad_eq]
  · rw [exec_byte (b := 0xF0#8) (.inr rfl) hf, parse_F0 hb, sysEmpty_eq]
  · have hrow : encode i = some (.stream, [b]) ∧ (0xF0#8 ≤ b ∧ b < 0xF8#8) ∧ sysStatus b s = sysUndefined b s := by
      simp only [List.mem_cons, Prod.mk.injEq, List.not_mem_nil, or_false] at hmem
      rcases hmem with ⟨rfl, rfl⟩ | ⟨rfl, rfl⟩ | ⟨rfl, rfl⟩ <;> exact ⟨rfl, by decide, rfl⟩
    obtain ⟨he, hsys, hundef⟩ := hrow
    rw [exec_byte (.inr he) hf, parse_system hsys hb, hundef, sysUndefined_eq]

/-- Settles O27: `F6` is `SYS_COMMON` with the accumulator emptied, and then `DELIVER`. -/
theorem tuneRequestCompletes : Obligations.TuneRequestCompletes := by
  intro s hf hb
  refine ⟨_, exec_deliver_free (by decide) hf, ?_⟩
  rw [exec_byte (b := 0xF6#8) (.inr rfl) hf, parse_system (by decide) hb, ← sysEmpty_eq]
  rfl

/-- Settles O28: the first test of `PARSE` is the real-time one, and `DELIVER` leaves the parser. -/
theorem realTimeDeliversAtOnce : Obligations.RealTimeDeliversAtOnce := by
  intro s i b hmem hf
  have hrow : encode i = some (.stream, [b]) ∧ isRealTime b = true := by
    simp only [List.mem_cons, Prod.mk.injEq, List.not_mem_nil, or_false] at hmem
    rcases hmem with ⟨rfl, rfl⟩ | ⟨rfl, rfl⟩ | ⟨rfl, rfl⟩ | ⟨rfl, rfl⟩ | ⟨rfl, rfl⟩ | ⟨rfl, rfl⟩ | ⟨rfl, rfl⟩ |
      ⟨rfl, rfl⟩ <;> exact ⟨rfl, by decide⟩
  obtain ⟨he, hr⟩ := hrow
  refine ⟨realTime b s, exec_deliver_free (realTime_ok hr) hf, ?_, realTime_parser b s⟩
  rw [exec_byte (.inr he) hf, parse, if_pos hr]

/-! ### Bytes in a system block -/

/-- With `SYSEX_STATUS_ABORTS` a status byte is parsed as after leaving the block (spec/41_parser.md R140). -/
theorem parse_abort {s : State} {b : Byte} (hb : s.parser.st = .ignoringSystemBlock) (ha : s.config.sysexAborts = true)
    (hs : isStatus b = true) (hr : isRealTime b = false) (h7 : b ≠ 0xF7#8) : parse b s = parse b (leaveBlock s) := by
  rw [parse_status (s := leaveBlock s) hs hr (by simp)]
  simp [parse, inBlock, hb, ha, hs, hr, h7]

/-- Settles O29: the three branches of `IN_BLOCK`. -/
theorem blockBytesAreDiscarded : Obligations.BlockBytesAreDiscarded := by
  intro s b i h8 hb hf hi
  rw [exec_byte (hi.imp_right And.left) hf]
  refine ⟨fun h7 => ?_, fun h7 hs ha => ?_, fun h7 h => ?_⟩
  · rw [h7, parse_F7 hb]
    rfl
  · have hr : isRealTime b = false := decide_eq_false (by bv_omega)
    exact ⟨_, exec_parse_free b hf, congrArg _ (parse_abort hb ha (decide_eq_true hs) hr h7)⟩
  · rw [parse_inBlock hb (h.imp_right fun ha => ⟨ha, by bv_omega⟩)]
    rfl

/-! ### Data bytes -/

theorem parse_first {s : State} (v : Data7) (hst : s.parser.st = .collectingData1) :
    parse (dataByte v) s = dataFirst (dataByte v) s := by
  rw [parse_dataByte v (by simp [hst])]
  simp [parseData, hst]

theorem parse_second {s : State} (v : Data7) (hst : s.parser.st = .collectingData2) :
    parse (dataByte v) s = dataSecond (dataByte v) s := by
  rw [parse_dataByte v (by simp [hst])]
  simp [parseData, hst]

theorem needOf_eq {b : Byte} {n : Nat} (h : nd b = some n) : needOf b = n := by simp [needOf, h]

/-- A message that is being collected needs a data byte. -/
theorem accNeed_ne_zero {p : Parser} (h : ParserInv p) (hc : p.st = .collectingData1) : p.accNeed ≠ 0 := by
  obtain ⟨-, hstatus, hn⟩ := h.collecting1 hc
  rw [← needOf_eq hn]
  rcases hstatus with hv | h1 | h2 | h3
  · exact (nd_voice (by simpa [isChannelVoice] using hv)).2
  · rw [h1]; decide
  · rw [h2]; decide
  · rw [h3]; decide

/-- Where one byte was needed, the first completes the message (spec/41_parser.md R146, R149). -/
theorem dataFirst_last {s : State} (b : Byte) (h : s.parser.accNeed = 1) :
    dataFirst b s = deliver { raw := [s.parser.accRaw[0], b] } { s with
      parser := { s.parser with st := .idle, accRaw := s.parser.accRaw.set 1 b, accLen := 0, accNeed := 0 } } := by
  simp [dataFirst, complete, completed_two, h]

/-- Where more were needed, the second is awaited (spec/41_parser.md R146). -/
theorem dataFirst_more {s : State} (b : Byte) (h : 1 < s.parser.accNeed) :
    dataFirst b s = { s with
      parser :=
        { s.parser with
          st := .collectingData2, accRaw := s.parser.accRaw.set 1 b, accLen := 2, accNeed := s.parser.accNeed - 1 } } := by
  simp [dataFirst, Nat.sub_ne_zero_of_lt h]

/-- The second data byte completes the message, normalised (spec/41_parser.md R147, R149). -/
theorem dataSecond_eq (b : Byte) (s : State) :
    dataSecond b s = deliver { raw := normalise [s.parser.accRaw[0], s.parser.accRaw[1], b] } { s with
      parser := { s.parser with st := .idle, accRaw := s.parser.accRaw.set 2 b, accLen := 0, accNeed := 0 } } := by
  simp [dataSecond, complete, completed_three]

/-- Settles O30: `RESUME` is `DATA1` of the byte on the loaded accumulator. -/
theorem dataByteResumes : Obligations.DataByteResumes := by
  intro s v n i hf hst hrs hn hi
  refine ⟨_, exec_byte (i := .dataFirst v) (.inr rfl) hf, ?_⟩
  rw [exec_byte (hi.symm.imp_right (· ▸ rfl)) hf, parse_dataByte v (by simp [hst]), parse_first v rfl]
  simp [parseData, dataResume, hst, hrs, needOf_eq hn]

/-- Settles O31: the two cases of `DATA1`; the invariant makes the two-byte message a Message. -/
theorem dataByteFirst : Obligations.DataByteFirst := by
  intro s v i hf hst hinv hi
  have hpos := accNeed_ne_zero hinv hst
  obtain ⟨-, -, hn⟩ := hinv.collecting1 hst
  rw [exec_byte (hi.symm.imp_right (· ▸ rfl)) hf, parse_first v hst]
  refine ⟨fun h1 => ?_, fun h1 => ?_⟩
  · have hok : msgOk { raw := [s.parser.accRaw[0], dataByte v] } = true := by
      simp [msgOk, lenOf, hn, h1, byte_lt_of_not_status (dataByte_not_status v)]
    exact ⟨_, exec_deliver_free hok hf, congrArg _ (dataFirst_last _ h1)⟩
  · rw [dataFirst_more _ (by omega)]

/-- The bytes a note-on of velocity 0 is delivered with (spec/41_parser.md R149, D9). -/
theorem normalise_dataByte (s d : Byte) (v : Data7) :
    normalise [s, d, dataByte v] =
      [if hiNibble s = 0x9#4 ∧ v = 0#7 then 0x80#8 ||| (s &&& 0x0F#8) else s, d, dataByte v] := by
  have hzero : dataByte v = 0#8 ↔ v = 0#7 := by revert v; decide
  have hoff : joinNibbles 0x8#4 (loNibble s) = 0x80#8 ||| (s &&& 0x0F#8) := by revert s; decide
  simp only [normalise, hzero, hoff]
  split <;> rfl

/-- Settles O32: `DATA2` completes, and the invariant makes the three-byte message a Message. -/
theorem dataByteSecond : Obligations.DataByteSecond := by
  intro s v i hf hst hinv hi
  obtain ⟨-, hn, -, hd⟩ := hinv.collecting2 hst
  have hok := normalise_ok hn hd (byte_lt_of_not_status (dataByte_not_status v))
  rw [normalise_dataByte] at hok
  refine ⟨_, exec_deliver_free hok hf, ?_⟩
  rw [exec_byte (hi.symm.imp_right (· ▸ rfl)) hf, parse_second v hst, dataSecond_eq, normalise_dataByte]

/-- Settles O33: the last case of R120. -/
theorem strayDataIsDiscarded : Obligations.StrayDataIsDiscarded := by
  intro s v i hf hst hrs hi
  rw [exec_byte (hi.symm.imp_right (· ▸ rfl)) hf, parse_dataByte v (by simp [hst])]
  simp [parseData, hst, hrs, dataStray, raise]

/-- Settles O34: every row of the byte stream means `PARSE` of its byte, and the decoded row is one of them. -/
theorem parseRunsItsRow : Obligations.ParseRunsItsRow := fun s b =>
  ⟨(exec_streamRow (encode_decodeByte _ b) s).symm, fun _ he => exec_streamRow he s,
    fun hf => ⟨_, exec_parse_free b hf⟩⟩

/-! ### Resynchronisation (spec/41_parser.md R162) -/

/-- The status byte of a message with data bytes starts it whatever was collected before: only the parser and the event log
are written (spec/41_parser.md R121, R132 to R134). -/
theorem parse_start {s : State} {b : Byte} (hb : s.parser.st ≠ .ignoringSystemBlock)
    (h : isChannelVoice b = true ∨ b = 0xF1#8 ∨ b = 0xF2#8 ∨ b = 0xF3#8) :
    ∃ p es, parse b s = { s with parser := p, out := { s.out with events := es } } ∧ p.st = .collectingData1 ∧
      p.accRaw[0] = b ∧ p.accNeed = needOf b ∧ p.rsValid = isChannelVoice b := by
  have hload {n : Nat} (hl : sysStatus b s = sysLoad b n s) (hsys : 0xF0#8 ≤ b ∧ b < 0xF8#8) :=
    (parse_system hsys hb).trans (hl.trans (sysLoad_eq b n s))
  rcases h with hv | rfl | rfl | rfl
  · exact ⟨_, _, (parse_voice hv hb).trans (cvStatus_eq b s), rfl, by simp, rfl, hv.symm⟩
  · exact ⟨_, _, hload (n := 1) rfl (by decide), rfl, by simp, rfl, rfl⟩
  · exact ⟨_, _, hload (n := 2) rfl (by decide), rfl, by simp, rfl, rfl⟩
  · exact ⟨_, _, hload (n := 1) rfl (by decide), rfl, by simp, rfl, rfl⟩

theorem needOf_start {b : Byte} (h : isChannelVoice b = true ∨ b = 0xF1#8 ∨ b = 0xF2#8 ∨ b = 0xF3#8) :
    needOf b = 1 ∨ needOf b = 2 := by
  revert b; decide

/-- The data bytes of a started message complete it (spec/41_parser.md R146, R147, R149). -/
theorem runInstrs_dataBytes {s : State} {vs : List Data7} (hf : pollFree s = true) (hst : s.parser.st = .collectingData1)
    (hn : s.parser.accNeed = vs.length) (h12 : vs.length = 1 ∨ vs.length = 2) :
    ∃ p, runInstrs (vs.map fun v => .parse (dataByte v)) s =
        .next (deliver { raw := normalise (s.parser.accRaw[0] :: vs.map dataByte) } { s with parser := p }) ∧
      p.st = .idle ∧ p.accLen = 0 ∧ p.rsValid = s.parser.rsValid := by
  rcases h12 with h1 | h2
  · obtain ⟨v, rfl⟩ := List.length_eq_one_iff.1 h1
    refine ⟨{ s.parser with st := .idle, accRaw := s.parser.accRaw.set 1 (dataByte v), accLen := 0, accNeed := 0 }, ?_,
      rfl, rfl, rfl⟩
    rw [List.map_singleton, runInstrs_singleton, exec_parse_free _ hf, parse_first v hst, dataFirst_last _ hn]
    rfl
  · obtain ⟨v, w, rfl⟩ := List.length_eq_two.1 h2
    refine ⟨{ s.parser with
      st := .idle, accRaw := (s.parser.accRaw.set 1 (dataByte v)).set 2 (dataByte w), accLen := 0, accNeed := 0 }, ?_,
      rfl, rfl, rfl⟩
    have hmore := dataFirst_more (s := s) (dataByte v) (by simp [hn])
    have hfree : pollFree (dataFirst (dataByte v) s) = true := by rw [hmore]; exact hf
    rw [List.map_cons, runInstrs_cons (exec_parse_free _ hf), parse_first v hst, List.map_singleton, runInstrs_singleton,
      exec_parse_free _ hfree, hmore, parse_second w rfl, dataSecond_eq]
    simp

theorem route_hostOut (m : Message) (s : State) : (route m s).out.hostOut = s.out.hostOut := by
  rcases route_cases m s with ⟨e, -, -, he⟩ | ⟨-, -, he⟩ | ⟨-, he⟩ <;> simp [he]

/-- With a session a delivered message is mirrored (spec/43_router.md R200, R201). -/
theorem deliver_mirrors {s : State} (m : Message) (h : s.env.hostReady = true) :
    (deliver m s).out.hostOut = s.out.hostOut ++ [encodeMsg m] := by
  rw [deliver_hostOut, onParserMessage, route_hostOut]
  simp [mirror, h]

/-- Settles O36: the status byte starts the message and its data bytes complete it, so it is delivered. -/
theorem resyncExplicitMessage : Obligations.ResyncExplicitMessage := by
  intro s b vs hf hb hstatus hnd
  have hneed := needOf_eq hnd
  obtain ⟨p, es, hparse, hst, hraw, hpn, hrs⟩ := parse_start hb hstatus
  obtain ⟨q, hrun, hidle, hlen, hqrs⟩ :=
    runInstrs_dataBytes (s := { s with parser := p, out := { s.out with events := es } }) hf hst (hpn.trans hneed)
      (hneed ▸ needOf_start hstatus)
  rw [runInstrs_cons (exec_parse_free b hf), hparse, hrun]
  simp only [hraw]
  refine ⟨_, rfl, deliver_mbx _ _, ?_⟩
  rw [deliver_parser]
  exact ⟨hidle, hlen, hqrs.trans hrs, fun hr => deliver_mirrors _ hr⟩

/-! ### Delivery and the mailbox -/

/-- Settles O38: `DELIVER` is the listener and then the mailbox. -/
theorem deliverLatestWins : Obligations.DeliverLatestWins := fun s m hf hm =>
  ⟨onParserMessage m s, (onMessage_ok hm).trans (onPoll_free hf), (onParserMessage_frame m s).mbx,
    (exec_deliver_free hm hf).trans (congrArg _ (deliver_eq m s))⟩

/-- Both answers of `MBX_TAKE`: the message if there is one, and an empty slot (spec/41_parser.md R152). -/
theorem mbxTake_eq (s : State) :
    mbxTake s = { s with
      mbx := { s.mbx with full := false }
      out := { s.out with resp := .mailbox (if s.mbx.full then some s.mbx.msg else none) } } := by
  unfold mbxTake
  split
  case isTrue => simp [respond]
  case isFalse hempty =>
    have hslot : { s.mbx with full := false } = s.mbx := by rw [← Bool.eq_false_iff.2 hempty]
    simp [respond, hslot]

theorem serveCall_mbxTake {s : State} {rest : List Call} (hc : s.seq.calls = .mbxTake :: rest) :
    serveCall s = mbxTake (returnCall rest s) := by
  simp [serveCall, hc]

theorem exec_mbxTake_free {s : State} (hf : pollFree s = true) :
    exec .mbxTake s = .next (mbxTake { s with seq := { s.seq with flushT0 := none } }) := by
  have hcalls := (pollFree_iff.1 hf).2.2
  have hself := setCalls_self (s := { s with seq := { s.seq with flushT0 := none } }) hcalls
  refine (makeCall_free hf).trans (congrArg _ ?_)
  exact (serveCall_mbxTake rfl).trans (congrArg mbxTake hself)

/-- Settles O47: the call is the oldest one when it is served, at once or in its turn. -/
theorem mailboxTake : Obligations.MailboxTake := by
  refine ⟨fun s hf => ?_, fun s rest ha ht hc => ?_⟩
  · rw [exec_mbxTake_free hf]
    refine ⟨fun hfull => ?_, fun hempty => ?_⟩
    · simp [mbxTake, respond, hfull]
    · simp [mbxTake, respond, hempty]
  · rw [exec_poll_call ha ht (hc ▸ List.cons_ne_nil _ _), serveCall_mbxTake hc, mbxTake_eq]
    rfl

end Sys2Proof.Machine

/-! SUPPORT AND PROOFS. The family 42_codec: what `DECODE` and `ENCODE` answer (spec/42_codec.md R171 to R173, R191), the
packet and encoder rows (R175 to R190, R192 to R196), the round trip (R197), and the refusals of records that are no
Message (spec/10_state.md R30, spec/43_router.md R207). -/

namespace Sys2Proof.Machine

open Sys2Proof

/-! ### A record that is no Message is refused -/

section

variable {m : Message} {op : State → State} {s : State}

theorem onMessage_refused (h : msgOk m = false) : onMessage m op s = .refused .notAMessage := by simp [onMessage, h]

theorem onVoiceMessage_refused (h : msgIsVoice m = false) : onVoiceMessage m op s = .refused .notChannelVoice := by
  simp [onVoiceMessage, h]

theorem exec_encode_refused (h : msgOk m = false) :
    exec (.encode m) s = .refused (if m = nullMessage then .encodeNull else .notAMessage) := by
  by_cases hnull : m = nullMessage
  · simp [exec, execEncode, hnull]
  · simp [exec, execEncode, hnull, onMessage_refused h]

end

/-- Settles O53: each operation passes a gate that refuses its operand, and `ENCODE` names the null message first. -/
theorem nonMessagesAreRefused : Obligations.NonMessagesAreRefused := fun _ _ _ =>
  ⟨fun h => ⟨onMessage_refused h, onMessage_refused h, onMessage_refused h, onMessage_refused h, onMessage_refused h,
      exec_encode_refused h⟩,
    fun h => ⟨onVoiceMessage_refused h, onVoiceMessage_refused h, onVoiceMessage_refused h⟩⟩

/-! ### `DECODE`: a Message, or null (spec/42_codec.md R171, R173) -/

theorem cinLen_le (cin : Nibble) : cinLen cin ≤ 3 := by revert cin; decide

theorem isStatus_of_lenOf {b : Byte} {n : Nat} (h : lenOf b = some n) : isStatus b = true := by
  have hall : ∀ b : Byte, (lenOf b).isSome = true → isStatus b = true := by decide
  exact hall b (by simp [h])

/-- `VALID` (R173) accepts exactly the payloads that meet spec/10_state.md R30. -/
theorem msgOk_packetPayload_iff {n : Nat} (hn : n ≤ 3) (p : Packet) :
    msgOk { raw := packetPayload n p } = true ↔ n ≠ 0 ∧ packetValid n p = true := by
  refine ⟨fun h => ?_, fun ⟨h0, hvalid⟩ => msgOk_of_packetValid h0 hvalid⟩
  obtain rfl | rfl | rfl | rfl : n = 0 ∨ n = 1 ∨ n = 2 ∨ n = 3 := by omega
  · simp [packetPayload, msgOk] at h
  all_goals
    simp only [packetPayload, msgOk, List.take, List.length, Bool.and_eq_true, beq_iff_eq] at h
    obtain ⟨hlen, hdata⟩ := h
    simp_all [packetValid, isStatus_of_lenOf hlen]

section

variable {p : Packet} {s : State}

theorem decodeMsg_of_msgOk {n : Nat} (hn : cinLen (packetCin p) = n) (h : msgOk { raw := packetPayload n p } = true) :
    decodeMsg p = { raw := packetPayload n p } := by
  subst hn
  obtain ⟨h0, hvalid⟩ := (msgOk_packetPayload_iff (cinLen_le _) p).1 h
  simp [decodeMsg, decodeCounted, h0, hvalid]

theorem decodeMsg_of_not_msgOk {n : Nat} (hn : cinLen (packetCin p) = n)
    (h : msgOk { raw := packetPayload n p } = false) : decodeMsg p = nullMessage := by
  subst hn
  have hinvalid := mt (msgOk_packetPayload_iff (cinLen_le _) p).2 (Bool.eq_false_iff.1 h)
  unfold decodeMsg decodeCounted
  split_ifs with h0 hvalid
  · rfl
  · exact absurd ⟨h0, hvalid⟩ hinvalid
  · rfl

theorem ne_nullMessage_of_msgOk {m : Message} (h : msgOk m = true) : m ≠ nullMessage := by
  rintro rfl
  exact Bool.false_ne_true h

theorem exec_decode_message (hf : pollFree s = true) {m : Message} (hd : decodeMsg p = m) (hm : msgOk m = true) :
    exec (.decode p) s = .next (respond (.decoded m) s) := by
  simp [exec, execDecode, onPoll_free hf, notePacket, hd, ne_nullMessage_of_msgOk hm]

theorem exec_decode_null (hf : pollFree s = true) (hd : decodeMsg p = nullMessage) :
    exec (.decode p) s = .next (respond (.decoded nullMessage) (raise (.packetNull p) s)) := by
  simp [exec, execDecode, onPoll_free hf, notePacket, hd]

theorem hostPacket_message {m : Message} (hd : decodeMsg p = m) (hm : msgOk m = true) :
    hostPacket p s = onHostMessage m s := by
  simp [hostPacket, hostMessage, hd, ne_nullMessage_of_msgOk hm]

theorem hostPacket_null (hd : decodeMsg p = nullMessage) : hostPacket p s = raise (.packetNull p) s := by
  simp [hostPacket, hostMessage, hd]

end

/-- Settles O49: the condition is that the payload meets R30. -/
theorem decodeIsMessageOrNull : Obligations.DecodeIsMessageOrNull := by
  intro s p n hf hn
  have hiff := msgOk_packetPayload_iff (hn ▸ cinLen_le (packetCin p)) p
  simp only [packetValid, isStatus, Bool.and_eq_true, Bool.or_eq_true, decide_eq_true_eq, beq_iff_eq, and_assoc] at hiff
  refine ⟨fun h => ?_, fun h => ?_⟩
  · have hok := hiff.2 h
    exact ⟨exec_decode_message hf (decodeMsg_of_msgOk hn.symm hok) hok, hok⟩
  · have hbad := Bool.eq_false_iff.2 (mt hiff.1 h)
    exact exec_decode_null hf (decodeMsg_of_not_msgOk hn.symm hbad)

/-! ### The packet rows (spec/42_codec.md R175 to R190) -/

/-- Settles O50: every row is the host step of its packet (spec/45_poll_loop.md R241), which routes what `DECODE` answers. -/
theorem packetRowsRoute : Obligations.PacketRowsRoute := by
  intro s cn p1 p2 p3 i cin n hf hrow
  obtain ⟨henc, hlen⟩ : encode i = some (.packet, [joinNibbles cn cin, p1, p2, p3]) ∧ cinLen cin = n := by
    simp only [List.mem_cons, List.not_mem_nil, or_false, Prod.mk.injEq] at hrow
    rcases hrow with ⟨rfl, rfl, rfl⟩ | ⟨rfl, rfl, rfl⟩ | ⟨rfl, rfl, rfl⟩ | ⟨rfl, rfl, rfl⟩ | ⟨rfl, rfl, rfl⟩ |
      ⟨rfl, rfl, rfl⟩ | ⟨rfl, rfl, rfl⟩ | ⟨rfl, rfl, rfl⟩ | ⟨rfl, rfl, rfl⟩ | ⟨rfl, rfl, rfl⟩ | ⟨rfl, rfl, rfl⟩ |
      ⟨rfl, rfl, rfl⟩ | ⟨rfl, rfl, rfl⟩ | ⟨rfl, rfl, rfl⟩ | ⟨rfl, rfl, rfl⟩ | ⟨rfl, rfl, rfl⟩ <;>
      exact ⟨rfl, rfl⟩
  let p : Packet := { p0 := joinNibbles cn cin, p1, p2, p3 }
  have hcount : cinLen (packetCin p) = n := (congrArg cinLen (loNibble_join cn cin)).trans hlen
  have hexec : exec i s = .next (hostPacket p s) := (exec_packetRow (p := p) henc s).trans (onPoll_free hf)
  refine ⟨fun hok => ⟨_, (onMessage_ok hok).trans (onPoll_free hf), ?_⟩, fun hbad => ?_⟩
  · exact hexec.trans (congrArg _ (hostPacket_message (decodeMsg_of_msgOk hcount hok) hok))
  · exact hexec.trans (congrArg _ (hostPacket_null (decodeMsg_of_not_msgOk hcount hbad)))

/-! ### `ENCODE` and the encoder rows (spec/42_codec.md R191 to R196) -/

theorem exec_encode_message {m : Message} {s : State} (hf : pollFree s = true) (hm : msgOk m = true) :
    exec (.encode m) s = .next (respond (.encoded (encodeMsg m)) s) := by
  simp [exec, execEncode, ne_nullMessage_of_msgOk hm, onMessage_ok hm, onPoll_free hf]

/-- What an encoder row encodes is a Message. -/
theorem msgOk_of_encoderRow {i : Instr} {m : Message} (hw : i.wf = true) (he : encode i = some (.encoder, m.raw)) :
    msgOk m = true := by
  by_contra hbad
  obtain ⟨e, hrej⟩ := decodeMessage_error (Bool.eq_false_iff.2 hbad)
  rw [decodeMessage_of_encode hw he] at hrej
  cases hrej

/-- The code of a channel-voice Message is the upper nibble of its status byte (R192). -/
theorem encodeCin_voice {m : Message} (h : msgIsVoice m = true) : encodeCin m = hiNibble (msgStatus m) := by
  have hcode : ∀ b : Byte, isChannelVoice b = true → (kindOf b).map cinOf = some (hiNibble b) := by decide
  obtain ⟨hok, hv⟩ := Bool.and_eq_true_iff.1 h
  obtain ⟨_ | ⟨b, ds⟩⟩ := m
  · cases hok
  · obtain ⟨k, hk, hcin⟩ := Option.map_eq_some_iff.1 (hcode b hv)
    simpa [encodeCin, msgKind, msgStatus, hk] using hcin

theorem encodeCin_realTime (r : BitVec 3) : encodeCin { raw := [realTimeByte r] } = 0xF#4 := by revert r; decide

/-- Settles O51: each row answers its code, which is the code `ENCODE` gives its message. -/
theorem encoderRows : Obligations.EncoderRows := by
  intro s m r d d1 d2 i cin hf hrow hw
  obtain ⟨hexec, henc, hcin⟩ : exec i s = .next (respond (.encoded (encodeWith cin m)) s) ∧
      encode i = some (.encoder, m.raw) ∧ encodeCin m = cin := by
    simp only [List.mem_cons, List.not_mem_nil, or_false, Prod.mk.injEq] at hrow
    rcases hrow with ⟨rfl, -, rfl⟩ | ⟨rfl, rfl, rfl⟩ | ⟨rfl, rfl, rfl⟩ | ⟨rfl, rfl, rfl⟩ | ⟨rfl, rfl, rfl⟩ |
      ⟨rfl, rfl, rfl⟩ | ⟨rfl, rfl, rfl⟩
    case inl => exact ⟨(onVoiceMessage_ok hw).trans (onPoll_free hf), rfl, encodeCin_voice hw⟩
    case inr.inl => exact ⟨onPoll_free hf, rfl, encodeCin_realTime r⟩
    all_goals exact ⟨onPoll_free hf, rfl, rfl⟩
  subst hcin
  exact ⟨hexec, exec_encode_message hf (msgOk_of_encoderRow hw henc)⟩

/-! ### The round trip (spec/42_codec.md R197) -/

/-- A kind's code selects as many bytes as the kind has (spec/30_encoding.md R92, R93). -/
theorem cinLen_cinOf (k : Kind) : cinLen (cinOf k) = dataBytesOf k + 1 := by cases k <;> rfl

theorem cinLen_encodeCin {m : Message} (h : msgOk m = true) : cinLen (encodeCin m) = m.raw.length := by
  obtain ⟨_ | ⟨b, ds⟩⟩ := m
  case nil => cases h
  case cons =>
    have hlen : lenOf b = some (ds.length + 1) := beq_iff_eq.1 (Bool.and_eq_true_iff.1 h).1
    obtain ⟨k, hk⟩ := Option.ne_none_iff_exists'.1 (kindOf_of_lenOf hlen)
    have hdata : dataBytesOf k = ds.length := by simpa [lenOf, nd, hk] using hlen
    simp [encodeCin, msgKind, hk, cinLen_cinOf, hdata]

theorem packetPayload_encodeWith (cin : Nibble) {m : Message} (h : m.raw.length ≤ 3) :
    packetPayload m.raw.length (encodeWith cin m) = m.raw := by
  obtain ⟨bs⟩ := m
  match bs, h with
  | [], _ | [_], _ | [_, _], _ | [_, _, _], _ => rfl

/-- The round trip of the two pure functions. -/
theorem decodeMsg_encodeMsg {m : Message} (h : msgOk m = true) : decodeMsg (encodeMsg m) = m := by
  have hcount : cinLen (packetCin (encodeMsg m)) = m.raw.length :=
    (congrArg cinLen (loNibble_join cable (encodeCin m))).trans (cinLen_encodeCin h)
  have hpayload : packetPayload m.raw.length (encodeMsg m) = m.raw := packetPayload_encodeWith _ (msgOk_length h).2
  have hmsg : ({ raw := packetPayload m.raw.length (encodeMsg m) } : Message) = m := congrArg Message.mk hpayload
  exact (decodeMsg_of_msgOk hcount (hmsg.symm ▸ h)).trans hmsg

/-- Settles O52: the encoder's code selects the message's own length. For the converse, `F0` as a single byte (code F)
decodes, and `ENCODE` gives it code 5. -/
theorem roundTripThroughTheCodec : Obligations.RoundTripThroughTheCodec := by
  refine ⟨fun s m hf hm => ⟨encodeMsg m, exec_encode_message hf hm, ?_⟩, fun s hf => ?_⟩
  · exact exec_decode_message hf (decodeMsg_encodeMsg hm) hm
  · let p : Packet := { p0 := 0x0F#8, p1 := 0xF0#8, p2 := 0x00#8, p3 := 0x00#8 }
    let m : Message := { raw := [0xF0#8] }
    have hm : msgOk m = true := by decide
    have hd : decodeMsg p = m := by decide
    exact ⟨p, encodeMsg m, m, by decide, exec_decode_message hf hd hm, exec_encode_message hf hm⟩

end Sys2Proof.Machine

/-! SUPPORT AND PROOFS. The family 43_router: what the rows of the two input streams leave (R203), the operations of the
router on a free poll context (R200 to R206), the replacement of the Channel Map (R208), and a forwarded message sent whole
(R205, R206, spec/45_poll_loop.md R243). -/

namespace Sys2Proof.Machine

open Sys2Proof

/-! ### The two logs that routing and parsing write only grow -/

/-- `host_out` and the event log are written at their back only. -/
structure LogsGrow (s t : State) : Prop where
  events : s.out.events <+: t.out.events
  hostOut : s.out.hostOut <+: t.out.hostOut

namespace LogsGrow

variable {s t u : State}

theorem rfl' (s : State) : LogsGrow s s := ⟨List.prefix_rfl, List.prefix_rfl⟩

theorem trans' (h : LogsGrow s t) (g : LogsGrow t u) : LogsGrow s u :=
  ⟨h.events.trans g.events, h.hostOut.trans g.hostOut⟩

end LogsGrow

theorem raise_logs (e : Event) (s : State) : LogsGrow s (raise e s) := ⟨List.prefix_append _ _, List.prefix_rfl⟩

theorem setParser_logs (s : State) (p : Parser) : LogsGrow s { s with parser := p } := ⟨List.prefix_rfl, List.prefix_rfl⟩

theorem mirror_logs (m : Message) (s : State) : LogsGrow s (mirror m s) := by
  unfold mirror
  split
  · exact ⟨List.prefix_rfl, List.prefix_append _ _⟩
  · exact raise_logs _ s

theorem route_logs (m : Message) (s : State) : LogsGrow s (route m s) := by
  rcases route_cases m s with ⟨e, -, -, he⟩ | ⟨-, -, he⟩ | ⟨-, he⟩ <;> rw [he]
  · exact ⟨List.prefix_rfl, List.prefix_rfl⟩
  · exact ⟨List.prefix_append _ _, List.prefix_rfl⟩
  · exact .rfl' s

theorem hostPacket_logs (p : Packet) (s : State) : LogsGrow s (hostPacket p s) := by
  unfold hostPacket hostMessage
  split
  · exact raise_logs _ s
  · exact route_logs _ s

/-- A host packet is not sent back to the host (spec/43_router.md R203). -/
theorem hostPacket_hostOut (p : Packet) (s : State) : (hostPacket p s).out.hostOut = s.out.hostOut := by
  unfold hostPacket hostMessage
  split
  · rfl
  · exact route_hostOut _ s

theorem deliver_logs (m : Message) (s : State) : LogsGrow s (deliver m s) := by
  have hlisten : LogsGrow s (onParserMessage m s) := (mirror_logs m s).trans' (route_logs m _)
  rw [deliver_eq]
  exact hlisten.trans' ⟨List.prefix_append _ _, List.prefix_rfl⟩

theorem complete_logs (s : State) : LogsGrow s (complete s) := (setParser_logs s _).trans' (deliver_logs _ _)

theorem cvStatus_logs (b : Byte) (s : State) : LogsGrow s (cvStatus b s) := by
  rw [cvStatus_eq]
  exact ⟨List.prefix_append _ _, List.prefix_rfl⟩

theorem sysLoad_logs (b : Byte) (n : Nat) (s : State) : LogsGrow s (sysLoad b n s) := by
  rw [sysLoad_eq]
  exact ⟨List.prefix_append _ _, List.prefix_rfl⟩

theorem sysEmpty_logs (st : ParserState) (s : State) : LogsGrow s (sysEmpty st s) := by
  rw [sysEmpty_eq]
  exact ⟨List.prefix_append _ _, List.prefix_rfl⟩

theorem sysUndefined_logs (b : Byte) (s : State) : LogsGrow s (sysUndefined b s) :=
  (sysEmpty_logs _ s).trans' (raise_logs _ _)

theorem sysStatus_logs (b : Byte) (s : State) : LogsGrow s (sysStatus b s) := by
  unfold sysStatus
  split
  · exact sysEmpty_logs _ s
  · exact sysLoad_logs _ _ s
  · exact sysLoad_logs _ _ s
  · exact sysLoad_logs _ _ s
  · exact sysUndefined_logs _ s
  · exact sysUndefined_logs _ s
  · exact (sysEmpty_logs _ s).trans' (deliver_logs _ _)
  · exact sysUndefined_logs _ s

theorem parseStatus_logs (b : Byte) (s : State) : LogsGrow s (parseStatus b s) := by
  unfold parseStatus
  split
  · exact cvStatus_logs b s
  · exact sysStatus_logs b s

theorem inBlock_logs (b : Byte) (s : State) : LogsGrow s (inBlock b s) := by
  unfold inBlock
  split
  · exact setParser_logs s _
  · split
    · exact (setParser_logs s _).trans' (parseStatus_logs b _)
    · exact raise_logs _ s

theorem dataFirst_logs (b : Byte) (s : State) : LogsGrow s (dataFirst b s) := by
  unfold dataFirst
  dsimp only
  split
  · exact (setParser_logs s _).trans' (complete_logs _)
  · exact setParser_logs s _

theorem parseData_logs (b : Byte) (s : State) : LogsGrow s (parseData b s) := by
  unfold parseData
  split
  · exact dataFirst_logs b s
  · exact (setParser_logs s _).trans' (complete_logs _)
  · exact raise_logs _ s
  · split
    · exact (setParser_logs s _).trans' (dataFirst_logs b _)
    · exact raise_logs _ s

theorem parse_logs (b : Byte) (s : State) : LogsGrow s (parse b s) := by
  unfold parse
  split
  · exact deliver_logs _ s
  · split
    · exact inBlock_logs b s
    · split
      · exact parseStatus_logs b s
      · exact parseData_logs b s

/-! ### The rows of the two input streams -/

theorem exists_byte_of_streamRow {i : Instr} {bytes : List Byte} (h : encode i = some (.stream, bytes)) :
    ∃ b, encode i = some (.stream, [b]) := by
  cases i <;> simp [encode, encodePacketRow] at h <;> exact ⟨_, rfl⟩

theorem exists_packet_of_packetRow {i : Instr} {bytes : List Byte} (h : encode i = some (.packet, bytes)) :
    ∃ p : Packet, encode i = some (.packet, [p.p0, p.p1, p.p2, p.p3]) := by
  cases i <;> simp [encode, encodeStreamRow] at h <;> exact ⟨⟨_, _, _, _⟩, rfl⟩

section

variable {s t : State} {i : Instr} {bytes : List Byte}

theorem streamRow_frame (he : encode i = some (.stream, bytes)) (h : exec i s = .next t) :
    ParserFrame s t ∧ LogsGrow s t := by
  obtain ⟨b, hb⟩ := exists_byte_of_streamRow he
  rw [exec_streamRow hb] at h
  rcases onPoll_next h with ⟨-, rfl⟩ | rfl
  · exact ⟨parse_frame b s, parse_logs b s⟩
  · exact ⟨.rfl' _, .rfl' _⟩

theorem packetRow_frame (he : encode i = some (.packet, bytes)) (h : exec i s = .next t) :
    RouterFrame s t ∧ LogsGrow s t ∧ t.out.hostOut = s.out.hostOut := by
  obtain ⟨p, hp⟩ := exists_packet_of_packetRow he
  rw [exec_packetRow hp] at h
  rcases onPoll_next h with ⟨-, rfl⟩ | rfl
  · exact ⟨hostPacket_frame p s, hostPacket_logs p s, hostPacket_hostOut p s⟩
  · exact ⟨.rfl' _, .rfl' _, rfl⟩

end

/-- Settles O20: a stream row is `PARSE` of its byte and a packet row the host step of its packet. -/
theorem streamAndPacketFrames : Obligations.StreamAndPacketFrames := by
  intro i f bytes s t he hf h
  obtain ⟨frame, ⟨⟨es, hes⟩, ⟨ps, hps⟩⟩, hpacket⟩ : ParserFrame s t ∧ LogsGrow s t ∧
      (f = .packet → t.parser = s.parser ∧ t.mbx = s.mbx ∧ t.out.hostOut = s.out.hostOut) := by
    cases f with
    | stream =>
      obtain ⟨frame, logs⟩ := streamRow_frame he h
      exact ⟨frame, logs, nofun⟩
    | packet =>
      obtain ⟨frame, logs, hout⟩ := packetRow_frame he h
      exact ⟨frame.toParserFrame, logs, fun _ => ⟨frame.parser, frame.mbx, hout⟩⟩
    | encoder => exact absurd rfl hf
  exact ⟨fun _ => by rw [frame.ring], frame.ring, frame.config, frame.chmap, frame.link, frame.phase, frame.calls,
    frame.flushT0, frame.active, frame.initFail, frame.env, frame.linkOut, frame.pulseOut, frame.sent, frame.resp,
    ⟨es, hes.symm⟩, ⟨ps, hps.symm⟩, hpacket⟩

/-! ### Routing by the Channel Map (R202) -/

section

variable {m : Message} {op : State → State} {s : State}

theorem onMessage_free (hm : msgOk m = true) (hf : pollFree s = true) : onMessage m op s = .next (op s) :=
  (onMessage_ok hm).trans (onPoll_free hf)

theorem onVoiceMessage_free (hm : msgIsVoice m = true) (hf : pollFree s = true) :
    onVoiceMessage m op s = .next (op s) :=
  (onVoiceMessage_ok hm).trans (onPoll_free hf)

theorem exec_route_free (hm : msgOk m = true) (hf : pollFree s = true) : exec (.route m) s = .next (route m s) :=
  onMessage_free hm hf

theorem route_of_not_voice (hv : isChannelVoice (msgStatus m) = false) : route m s = s := by simp [route, hv]

theorem route_of_enabled (hv : isChannelVoice (msgStatus m) = true) (h : (mapEntry m s).toNat < nInt)
    (he : s.chmap.enable[(mapEntry m s).toNat] = true) : route m s = forward m ⟨(mapEntry m s).toNat, h⟩ s := by
  simp [route, mapTarget, hv, h, he]

theorem route_of_disabled (hv : isChannelVoice (msgStatus m) = true) (h : (mapEntry m s).toNat < nInt)
    (he : s.chmap.enable[(mapEntry m s).toNat] = false) : route m s = policyDrop m s := by
  simp [route, mapTarget, hv, h, he]

/-- A reserved entry value acts as the disabled one (D5). -/
theorem route_of_reserved (hv : isChannelVoice (msgStatus m) = true) (h : nInt ≤ (mapEntry m s).toNat) :
    route m s = policyDrop m s := by
  simp [route, mapTarget, hv, Nat.not_lt.2 h]

end

/-- Settles O41: one case for each outcome of the map. -/
theorem routeByMap : Obligations.RouteByMap := by
  intro s m hf hm
  refine ⟨fun hv => ?_, fun hv => ⟨route m s, exec_route_free hm hf, ?_⟩⟩
  · exact (exec_route_free hm hf).trans (congrArg _ (route_of_not_voice hv))
  · have hvoice : msgIsVoice m = true := Bool.and_eq_true_iff.2 ⟨hm, hv⟩
    split_ifs with h he
    · exact (onVoiceMessage_free hvoice hf).trans (congrArg _ (route_of_enabled hv h he).symm)
    · exact (onVoiceMessage_free hvoice hf).trans (congrArg _ (route_of_disabled hv h (Bool.eq_false_iff.2 he)).symm)
    · exact (onVoiceMessage_free hvoice hf).trans (congrArg _ (route_of_reserved hv (Nat.le_of_not_lt h)).symm)

/-- Settles O21: the swap is the whole effect, and a reserved entry drops the message that meets it. -/
theorem mapReplaceSwapsWhole : Obligations.MapReplaceSwapsWhole := by
  intro s map enable
  let t : State := { s with chmap := { map := map, enable := enable } }
  refine ⟨t, rfl, rfl, fun m hvoice hf hentry => ?_⟩
  obtain ⟨hm, hv⟩ := Bool.and_eq_true_iff.1 hvoice
  obtain ⟨-, hpend, -⟩ := pollFree_iff.1 hf
  have hdrop : route m t = policyDrop m t := route_of_reserved hv hentry
  exact ⟨policyDrop m t, (exec_route_free (s := t) hm hf).trans (congrArg _ hdrop), hpend, rfl⟩

/-! ### The operations of the router (R200 to R206) -/

/-- Settles O42: `ON_HOST_MESSAGE` is `ROUTE`, which has its frame. -/
theorem hostMessageIsRoutedOnly : Obligations.HostMessageIsRoutedOnly := fun s m hf hm =>
  ⟨route m s, exec_route_free hm hf, onMessage_free hm hf, route_hostOut m s, (route_frame m s).mbx, (route_frame m s).parser⟩

theorem pollFree_mirror (m : Message) (s : State) : pollFree (mirror m s) = pollFree s := by
  simp only [pollFree, mirror_txPend, (mirror_frame m s).active]

/-- Settles O39: `MIRROR` leaves `A_POLL` free, so `ROUTE` runs after it. -/
theorem listenerMirrorsThenRoutes : Obligations.ListenerMirrorsThenRoutes := by
  intro s m hf hm
  have hmirror : exec (.mirror m) s = .next (mirror m s) := onMessage_free hm hf
  refine ⟨onParserMessage m s, ?_, onMessage_free hm hf⟩
  rw [runInstrs_cons hmirror, runInstrs_singleton]
  exact exec_route_free hm ((pollFree_mirror m s).trans hf)

/-- Settles O40: the two branches of `MIRROR`, and `ENCODE` answers the packet it sends. -/
theorem mirrorSendsOrDrops : Obligations.MirrorSendsOrDrops := by
  intro s m hf hm
  refine ⟨fun hready => ⟨encodeMsg m, exec_encode_message hf hm, ?_⟩, fun hready => ?_⟩
  · exact (onMessage_free hm hf).trans (congrArg _ (if_pos hready))
  · exact (onMessage_free hm hf).trans (congrArg _ (if_neg (Bool.eq_false_iff.1 hready)))

/-- Settles O43: the gate is open, and the operation is the next state. -/
theorem policyDropCounts : Obligations.PolicyDropCounts := fun _ _ hf hm => onVoiceMessage_free hm hf

theorem hiNibble_forwardStatus (b : Byte) (e : Fin nInt) : hiNibble (forwardStatus b e) = hiNibble b := by
  revert b e; decide

theorem loNibble_forwardStatus (b : Byte) (e : Fin nInt) : (loNibble (forwardStatus b e)).toNat = e := by
  revert b e; decide

theorem exists_cons_of_msgOk {m : Message} (h : msgOk m = true) : ∃ b ds, m.raw = b :: ds :=
  List.exists_cons_of_length_pos (msgOk_length h).1

/-- Settles O44: the status byte is rewritten, and its nibbles are the old upper one and the id. -/
theorem forwardRewritesTheNibble : Obligations.ForwardRewritesTheNibble := by
  intro s m e hf hvoice
  obtain ⟨b, ds, hraw⟩ := exists_cons_of_msgOk (msgOk_of_msgIsVoice hvoice)
  have hbytes : forwardBytes m e = forwardStatus b e :: ds := by simp [forwardBytes, msgStatus, hraw]
  refine ⟨b, ds, hraw, hiNibble_forwardStatus b e, loNibble_forwardStatus b e, ?_⟩
  rw [← forwardStatus, ← hbytes]
  exact onVoiceMessage_free hvoice hf

/-- Settles O46: the gate is open, and the operation is the next state. -/
theorem pulseCounts : Obligations.PulseCounts := fun _ hf => onPoll_free hf

/-! ### A forwarded message is sent whole (R205, R206, spec/45_poll_loop.md R243) -/

/-- `s` with the bytes of `tx_pend` enqueued at `now`, in order, and the pulse given. -/
def pendingSent (s : State) : State :=
  { s with
    seq := { s.seq with txPend := [] }
    link :=
      { s.link with
        hwq := s.link.hwq ++ s.seq.txPend, lastUs := s.env.now, lastValid := true
        byteCount := s.link.byteCount + BitVec.ofNat 32 s.seq.txPend.length }
    out :=
      { s.out with
        pulseOut := s.out.pulseOut + 1
        sent := s.out.sent ++ s.seq.txPend.map (s.env.now, ·) } }

theorem exec_poll_pending {s : State} {b : Byte} {rest : List Byte} (ha : s.active = true)
    (hpend : s.seq.txPend = b :: rest) (hr : sendReady s = true) :
    exec .poll s = .next (dropSent rest (enqueue b s)) := by
  simp [exec, execPoll, pollStep, sendStep, ha, hpend, hr]

/-- With no gap to wait for, `SEND` waits for room in the queue only (spec/44_link_tx.md R220). -/
theorem sendReady_of_no_gap {s : State} (hgap : s.link.minGapUs = 0#64)
    (hroom : s.link.hwq.length < s.config.hwqDepth) : sendReady s = true := by
  have hgap' : s.link.minGapUs ≤ s.env.now - s.link.lastUs := by bv_omega
  simp [sendReady, gapElapsed, hgap', hroom]

theorem runInstrs_poll_pending {s : State} {bs : List Byte} (ha : s.active = true) (hpend : s.seq.txPend = bs)
    (hne : bs ≠ []) (hgap : s.link.minGapUs = 0#64) (hroom : s.link.hwq.length + bs.length ≤ s.config.hwqDepth) :
    runInstrs (List.replicate bs.length .poll) s = .next (pendingSent s) := by
  induction bs generalizing s with
  | nil => exact absurd rfl hne
  | cons b rest ih =>
    rw [List.length_cons] at hroom
    have hsend := exec_poll_pending ha hpend (sendReady_of_no_gap hgap (by omega))
    rw [List.length_cons, List.replicate_succ, runInstrs_cons hsend]
    cases rest with
    | nil => simp [runInstrs, pendingSent, dropSent, enqueue, pulse, hpend]
    | cons c rest =>
      have hroom' : (s.link.hwq ++ [b]).length + (c :: rest).length ≤ s.config.hwqDepth := by
        simp only [List.length_append, List.length_cons, List.length_nil] at hroom ⊢
        omega
      rw [ih (s := dropSent (c :: rest) (enqueue b s)) ha rfl (List.cons_ne_nil c rest) hgap hroom']
      simp [pendingSent, dropSent, enqueue, hpend, BitVec.ofNat_add, BitVec.add_assoc, BitVec.add_comm 1#32]

/-- Settles O45: each step sends the front byte, and the pulse follows the last. -/
theorem forwardIsSentWhole : Obligations.ForwardIsSentWhole := fun s ha hpend hgap hroom =>
  ⟨pendingSent s, runInstrs_poll_pending ha rfl hpend hgap hroom, rfl, rfl, rfl, rfl, rfl, rfl, rfl, rfl⟩

end Sys2Proof.Machine

/-! SUPPORT AND PROOFS. The family 44_link_tx: nothing is lost between `SEND` and the wire (spec/44_link_tx.md R223), the
pacing of the enqueues (R222), `SEND` (R220, R221), `LINK_POP` (R226) and `FLUSH` (R224). -/

namespace Sys2Proof.Machine

open Sys2Proof

/-! ### The first step of a call -/

/-- `s` with `c` the one unfinished call, as it stands at its first step. -/
def callBegun (c : Call) (s : State) : State := { s with seq := { s.seq with calls := [c], flushT0 := none } }

/-- On a free poll context a call takes its first step at once. -/
theorem makeCall_serves {s : State} (c : Call) (hf : pollFree s = true) :
    makeCall c s = .next (serveCall (callBegun c s)) := makeCall_free hf

/-- A call that returns at its first step leaves no call behind. -/
theorem returnCall_callBegun {s : State} (c : Call) (hf : pollFree s = true) :
    returnCall [] (callBegun c s) = { s with seq := { s.seq with flushT0 := none } } :=
  setCalls_self (s := { s with seq := { s.seq with flushT0 := none } }) (pollFree_iff.1 hf).2.2

/-! ### `LINK_POP` (R226) -/

theorem linkPop_empty {s : State} (hq : s.link.hwq = []) : linkPop s = s := by simp [linkPop, hq]

theorem linkPop_front {s : State} {b : Byte} {rest : List Byte} (hq : s.link.hwq = b :: rest) :
    linkPop s =
      { s with link := { s.link with hwq := rest }, out := { s.out with linkOut := s.out.linkOut ++ [b] } } := by
  simp [linkPop, hq]

/-- Settles O57: the two cases of the queue. -/
theorem linkPopTakesTheFront : Obligations.LinkPopTakesTheFront := by
  intro s ha
  have hexec : exec .linkPop s = .next (linkPop s) := by simp [exec, execLinkPop, ha]
  exact ⟨fun b rest hq => hexec.trans (congrArg _ (linkPop_front hq)),
    fun hq => hexec.trans (congrArg _ (linkPop_empty hq))⟩

/-! ### What a step can do to the transmitter (R220, R226, spec/70_reset_and_hazards.md R302) -/

/-- The transmitter, its two logs and `active` are left, and `now` does not go back. -/
structure LinkFrame (s t : State) : Prop where
  link : t.link = s.link
  active : t.active = s.active
  linkOut : t.out.linkOut = s.out.linkOut
  sent : t.out.sent = s.out.sent
  now : s.env.now ≤ t.env.now

theorem LinkFrame.of_parserFrame {s t : State} (f : ParserFrame s t) : LinkFrame s t :=
  ⟨f.link, f.active, f.linkOut, f.sent, by rw [f.env]; exact BitVec.le_refl _⟩

theorem EnvEffect.linkFrame {s t : State} (e : EnvEffect s t) : LinkFrame s t := by
  have hnow := e.now_le
  cases e <;> exact ⟨rfl, rfl, rfl, rfl, hnow⟩

theorem dropSent_linkFrame (rest : List Byte) (s : State) : LinkFrame s (dropSent rest s) := by
  unfold dropSent
  dsimp only
  split <;> exact ⟨rfl, rfl, rfl, rfl, BitVec.le_refl _⟩

theorem mbxTake_linkFrame (s : State) : LinkFrame s (mbxTake s) := by
  rw [mbxTake_eq]
  exact ⟨rfl, rfl, rfl, rfl, BitVec.le_refl _⟩

theorem ringPush_linkFrame (b : Byte) (s : State) : LinkFrame s (ringPush b s) := by
  rcases ringPush_cases b s with ⟨-, he⟩ | ⟨-, he⟩ <;> rw [he] <;> exact ⟨rfl, rfl, rfl, rfl, BitVec.le_refl _⟩

/-- `P` is kept by what leaves the transmitter, by an enqueue whose wait condition holds, by `LINK_POP`, and by the
activation, which alone writes `lt_min_gap_us`. -/
structure LinkKept (P : State → Prop) : Prop where
  frame : ∀ {s t : State}, LinkFrame s t → P s → P t
  send : ∀ {s : State} (b : Byte), s.active = true → sendReady s = true → P s → P (enqueue b s)
  pop : ∀ {s : State} {b : Byte} {rest : List Byte}, s.link.hwq = b :: rest → P s →
    P { s with link := { s.link with hwq := rest }, out := { s.out with linkOut := s.out.linkOut ++ [b] } }
  activate : ∀ {s : State} (gap : Time), s.active = false → P s →
    P { s with link := { s.link with minGapUs := gap }, active := true }

namespace LinkKept

variable {P : State → Prop} (k : LinkKept P) {s t : State}
include k

/-- An operation that leaves every field of a `LinkFrame`. -/
theorem keep (h : P s) (he : (t.link, t.active, t.out.linkOut, t.out.sent, t.env.now) =
    (s.link, s.active, s.out.linkOut, s.out.sent, s.env.now)) : P t := by
  simp only [Prod.mk.injEq] at he
  obtain ⟨link, active, linkOut, sent, now⟩ := he
  exact k.frame ⟨link, active, linkOut, sent, now ▸ BitVec.le_refl _⟩ h

theorem after_parserFrame (f : ParserFrame s t) (h : P s) : P t := k.frame (.of_parserFrame f) h

/-- A step of the sequencer, or of the oldest call: only a byte sent, for a call or from `tx_pend`, writes the
transmitter. -/
theorem after_pollStep_serveCall (ha : s.active = true) (h : P s) : P (pollStep s) ∧ P (serveCall s) := by
  have hret : ∀ rest, P (returnCall rest s) := fun _ => k.keep h rfl
  exact pollStep_cases s P h
    (hset := fun _ => k.keep h rfl)
    (hparse := fun _ b => k.after_parserFrame (parse_frame b _) (k.keep h rfl))
    (hhost := fun p _ _ => k.after_parserFrame (hostPacket_frame p _).toParserFrame (k.keep h rfl))
    (hret := hret)
    (hmbx := fun rest => k.frame (mbxTake_linkFrame _) (hret rest))
    (hsend := fun b rest hr => k.send b ha hr (hret rest))
    (hflush := fun rest => k.keep (hret rest) rfl)
    (hwait := fun _ => k.keep h rfl)
    (hdrop := fun b rest hr _ => k.frame (dropSent_linkFrame rest _) (k.send b ha hr h))

theorem after_initialise (ok : Bool) (gap : Option Time) (ha : s.active = false) (hf : s.initFail = false) (h : P s) :
    P (initialise ok gap s) := by
  cases ok
  · rw [initialise_false ha hf]
    exact k.keep h rfl
  · rw [initialise_true ha hf]
    exact k.activate _ ha h

theorem after_linkPop (h : P s) : P (linkPop s) := by
  rcases hq : s.link.hwq with _ | ⟨b, rest⟩
  · rw [linkPop_empty hq]
    exact h
  · rw [linkPop_front hq]
    exact k.pop hq h

theorem after_effect (e : Effect s t) (h : P s) : P t := by
  cases e with
  | stay => exact h
  | parsed b => exact k.after_parserFrame (parse_frame b s) h
  | hosted p => exact k.after_parserFrame (hostPacket_frame p s).toParserFrame h
  | delivered m => exact k.after_parserFrame (deliver_frame m s) h
  | listened m => exact k.after_parserFrame (onParserMessage_frame m s).toParserFrame h
  | mirrored m => exact k.after_parserFrame (mirror_frame m s).toParserFrame h
  | routed m => exact k.after_parserFrame (route_frame m s).toParserFrame h
  | popped b u hu =>
    obtain ⟨-, -, rfl⟩ := ringPop_some hu
    exact k.keep h rfl
  | pushed b => exact k.frame (ringPush_linkFrame b s) h
  | linkPopped => exact k.after_linkPop h
  | polled ha => exact (k.after_pollStep_serveCall ha h).1
  | served c hf =>
    exact (k.after_pollStep_serveCall (s := callBegun c s) (pollFree_iff.1 hf).1 (k.keep h rfl)).2
  | initialised ok gap ha hf => exact k.after_initialise ok gap ha hf h
  | responded | decodedNull | dropped | forwarded | pulsed | queued | remapped => exact k.keep h rfl

/-- Every step keeps `P`. -/
theorem after_step (h : step s = .next t) (hs : P s) : P t :=
  step_keeps P (fun _ _ => k.after_effect) (fun _ _ e => k.frame e.linkFrame) h hs

end LinkKept

/-! ### Conservation (R223) -/

theorem linkInv_kept : LinkKept LinkInv where
  frame f h := ⟨by rw [f.linkOut, f.link, f.sent]; exact h.conserved, by rw [f.link, f.sent]; exact h.counted⟩
  send b _ _ h := ⟨by simp [← h.conserved], by simp [h.counted, BitVec.ofNat_add]⟩
  pop hq h := ⟨by simp [← h.conserved, hq], h.counted⟩
  activate _ _ h := ⟨h.conserved, h.counted⟩

/-- Settles O10: an enqueue adds its byte to both lists and to the count, and `LINK_POP` moves a byte within the one. -/
theorem stepKeepsLinkInv : Obligations.StepKeepsLinkInv := fun _ _ h hs => linkInv_kept.after_step hs h

/-! ### Pacing (R222, R228) -/

/-- The wait condition of `SEND` as R220 writes it. -/
theorem sendReady_iff {s : State} :
    sendReady s = true ↔
      (s.link.lastValid = false ∨ s.link.minGapUs ≤ s.env.now - s.link.lastUs) ∧
        s.link.hwq.length < s.config.hwqDepth := by
  simp [sendReady, gapElapsed]

/-- The unsigned difference does not wrap, `lt_last_us` being in the past (R228). -/
theorem gap_le_of_sendReady {s : State} (hr : sendReady s = true) (hv : s.link.lastValid = true)
    (hpast : s.link.lastUs ≤ s.env.now) : s.link.lastUs.toNat + s.link.minGapUs.toNat ≤ s.env.now.toNat := by
  have hgap : s.link.minGapUs ≤ s.env.now - s.link.lastUs := by simpa [hv] using (sendReady_iff.1 hr).1
  bv_omega

theorem pacingInv_enqueue {s : State} (b : Byte) (ha : s.active = true) (hr : sendReady s = true) (h : PacingInv s) :
    PacingInv (enqueue b s) where
  gaps := by
    refine h.gaps.append (.singleton _) fun a hlast c hc => ?_
    obtain rfl : (s.env.now, b) = c := by simpa using hc
    have hv : s.link.lastValid = true := by
      by_contra hv
      simp [h.first (Bool.eq_false_iff.2 hv)] at hlast
    have hat : a.1 = s.link.lastUs := by simpa [Option.mem_def.1 hlast] using h.last hv
    simpa [hat] using gap_le_of_sendReady hr hv (h.past hv)
  last _ := by simp
  first := nofun
  past _ := BitVec.le_refl _
  inactive hi := absurd (ha.symm.trans hi) nofun

theorem PacingInv.of_frame {s t : State} (f : LinkFrame s t) (h : PacingInv s) : PacingInv t where
  gaps := by rw [f.sent, f.link]; exact h.gaps
  last := by rw [f.sent, f.link]; exact h.last
  first := by rw [f.sent, f.link]; exact h.first
  past := by rw [f.link]; exact fun hv => BitVec.le_trans (h.past hv) f.now
  inactive := by rw [f.active, f.sent]; exact h.inactive

/-- Nothing has been sent before the activation, so every gap it may choose is kept. -/
theorem pacingInv_activate {s : State} (gap : Time) (ha : s.active = false) (h : PacingInv s) :
    PacingInv { s with link := { s.link with minGapUs := gap }, active := true } :=
  ⟨by rw [h.inactive ha]; exact .nil, h.last, h.first, h.past, nofun⟩

theorem pacingInv_kept : LinkKept PacingInv where
  frame := .of_frame
  send := pacingInv_enqueue
  pop _ h := ⟨h.gaps, h.last, h.first, h.past, h.inactive⟩
  activate := pacingInv_activate

/-- Settles O11: an enqueue waits for the gap since the last one. -/
theorem stepKeepsPacingInv : Obligations.StepKeepsPacingInv := fun _ _ h hs => pacingInv_kept.after_step hs h

/-- Along a chain of gaps of at least `g`, each further element is `g` later. -/
theorem chain_span {α : Type} (f : α → Nat) (g : Nat) {l : List α} {a b : α}
    (h : (a :: l).IsChain (fun x y => f x + g ≤ f y)) (hb : (a :: l).getLast? = some b) : f a + l.length * g ≤ f b := by
  induction l generalizing a with
  | nil =>
    obtain rfl : a = b := by simpa using hb
    simp
  | cons c l ih =>
    rw [List.isChain_cons_cons] at h
    rw [List.getLast?_cons_cons] at hb
    calc
      f a + (c :: l).length * g = (f a + g) + l.length * g := by rw [List.length_cons]; ring
      _ ≤ f c + l.length * g := Nat.add_le_add_right h.1 _
      _ ≤ f b := ih h.2 hb

/-- Settles O13: the gaps add up. -/
theorem sendsSpanTheGaps : Obligations.SendsSpanTheGaps := by
  intro s a b h ha hb
  obtain ⟨l, hl⟩ := List.head?_eq_some_iff.1 ha
  have hgaps := h.gaps
  rw [hl] at hgaps hb ⊢
  exact chain_span (fun x => x.1.toNat) _ hgaps hb

/-! ### What blocks (R221) -/

/-- A well-formed instruction that is one step of `A_POLL` is an operation behind the gate. -/
theorem exec_pollStep_gated {i : Instr} (hi : isPollStep i = true) (hw : i.wf = true) :
    ∃ op, ∀ s, exec i s = onPoll op s := by
  cases i
  case push | mapReplace | linkPop | init | poll | drain | mbxTake | send | flush => simp [isPollStep] at hi
  case deliver | onParserMessage | mirror | route | onHostMessage => exact ⟨_, fun _ => onMessage_ok hw⟩
  case policyDrop | forward | encChannelVoice => exact ⟨_, fun _ => onVoiceMessage_ok hw⟩
  case encode m =>
    exact ⟨_, fun _ => (if_neg (ne_nullMessage_of_msgOk hw)).trans (onMessage_ok hw)⟩
  all_goals exact ⟨_, fun _ => rfl⟩

theorem makeCall_busy {s : State} (c : Call) (ha : s.active = true) (hb : pollFree s = false) :
    makeCall c s = .next { s with seq := { s.seq with calls := s.seq.calls ++ [c] } } := by
  simp [makeCall, ha, hb]

/-- Settles O56: the gate is closed, and a call joins the queue. -/
theorem busyPollTakesNoOtherStep : Obligations.BusyPollTakesNoOtherStep := by
  refine ⟨fun i s hi hw hb => ?_, fun s i c b hmem ha hb => ?_⟩
  · obtain ⟨op, hop⟩ := exec_pollStep_gated hi hw
    exact (hop s).trans (onPoll_busy hb)
  · simp only [List.mem_cons, Prod.mk.injEq, List.not_mem_nil, or_false] at hmem
    obtain ⟨rfl, rfl⟩ | ⟨rfl, rfl⟩ | ⟨rfl, rfl⟩ | ⟨rfl, rfl⟩ := hmem <;> exact makeCall_busy _ ha hb

/-! ### `SEND` by a client (R220) -/

theorem serveCall_send_ready {s : State} {b : Byte} {rest : List Call} (hc : s.seq.calls = .send b :: rest)
    (hr : sendReady s = true) : serveCall s = enqueue b (returnCall rest s) := by
  simp [serveCall, hc, hr]

theorem serveCall_send_waits {s : State} {b : Byte} {rest : List Call} (hc : s.seq.calls = .send b :: rest)
    (hr : ¬ sendReady s = true) : serveCall s = s := by
  simp [serveCall, hc, hr]

/-- Settles O54: the call is the oldest one at its first step and at the later ones, and its step is that of `SEND`. -/
theorem sendEnqueuesOrWaits : Obligations.SendEnqueuesOrWaits := by
  refine ⟨fun s b hf => ?_, fun s b rest ha ht hc => ?_⟩ <;> rw [← sendReady_iff]
  · refine ⟨fun hr => ?_, fun hr => ?_⟩ <;> refine (makeCall_serves _ hf).trans (congrArg _ ?_)
    · exact (serveCall_send_ready (s := callBegun _ s) rfl hr).trans (congrArg _ (returnCall_callBegun _ hf))
    · exact serveCall_send_waits rfl hr
  · rw [exec_poll_call ha ht (hc ▸ List.cons_ne_nil _ _)]
    refine ⟨fun hr => ?_, fun hr => ?_⟩
    · rw [serveCall_send_ready hc hr]
      rfl
    · rw [serveCall_send_waits hc hr]

/-! ### The steps of a `FLUSH` (R224) -/

section

variable {s : State} {rest : List Call} (hc : s.seq.calls = .flush :: rest)
include hc

/-- Until the queue is empty `FLUSH` waits. -/
theorem serveCall_flush_waits (ht : s.seq.flushT0 = none) (hq : s.link.hwq ≠ []) : serveCall s = s := by
  simp [serveCall, hc, ht, hwqEmpty, hq]

/-- The queue is seen empty, and there is no margin to wait for. -/
theorem serveCall_flush_no_margin (ht : s.seq.flushT0 = none) (hq : s.link.hwq = []) (h0 : s.config.settleUs = 0) :
    serveCall s = respond .flushed (returnCall rest s) := by
  simp [serveCall, hc, ht, hwqEmpty, hq, flushSettle, settled, h0]

/-- The instant at which the queue is seen empty becomes `t0`. -/
theorem serveCall_flush_starts (ht : s.seq.flushT0 = none) (hq : s.link.hwq = []) (h0 : s.config.settleUs ≠ 0) :
    serveCall s = { s with seq := { s.seq with flushT0 := some s.env.now } } := by
  simp [serveCall, hc, ht, hwqEmpty, hq, flushSettle, settled, h0]

variable {t0 : Time} (ht : s.seq.flushT0 = some t0)
include ht

theorem serveCall_flush_returns (h : s.config.settleUs ≤ (s.env.now - t0).toNat) :
    serveCall s = respond .flushed (returnCall rest s) := by
  have hset : settled s t0 = true := decide_eq_true h
  simp [serveCall, hc, ht, flushSettle, hset]

theorem serveCall_flush_settles (h : ¬s.config.settleUs ≤ (s.env.now - t0).toNat) : serveCall s = s := by
  have hset : settled s t0 = false := decide_eq_false h
  calc
    serveCall s = { s with seq := { s.seq with flushT0 := some t0 } } := by simp [serveCall, hc, ht, flushSettle, hset]
    _ = s := by rw [← ht]

end

/-- Settles O58: the call is the oldest one at its first step and at the later ones, and these are the steps of it. -/
theorem flushWaitsAndReturns : Obligations.FlushWaitsAndReturns := by
  refine ⟨fun s hf => ?_, fun s rest t0 ha ht hc => ?_⟩
  · refine ⟨fun hq => ?_, fun hq h0 => ?_, fun hq h0 => ?_⟩ <;> refine (makeCall_serves _ hf).trans (congrArg _ ?_)
    · exact serveCall_flush_waits rfl rfl hq
    · exact (serveCall_flush_no_margin (s := callBegun _ s) rfl rfl hq h0).trans
        (congrArg (respond _) (returnCall_callBegun _ hf))
    · exact serveCall_flush_starts (s := callBegun _ s) rfl rfl hq h0
  · rw [exec_poll_call ha ht (hc ▸ List.cons_ne_nil _ _)]
    refine ⟨fun hn hq => ?_, fun hn hq h0 => ?_, fun hn hq h0 => ?_, fun hs hle => ?_, fun hs hlt => ?_⟩
    · rw [serveCall_flush_waits hc hn hq]
    · rw [serveCall_flush_no_margin hc hn hq h0, returnCall, ← hn]
      rfl
    · rw [serveCall_flush_starts hc hn hq h0]
    · rw [serveCall_flush_returns hc hs hle]
      rfl
    · rw [serveCall_flush_settles hc hs hlt]

end Sys2Proof.Machine

/-! SUPPORT AND PROOFS. The family 45_poll_loop: the steps of `POLL` (spec/45_poll_loop.md R240, R241, R243, R244), and the
turns of a step of the block (R245, notes/assumptions/5.md). -/

namespace Sys2Proof.Machine

open Sys2Proof

/-! ### The phases' steps (R240, R241, decision D25) -/

section

variable {s : State} (hf : pollFree s = true)
include hf

/-- With nothing pending, a step of `A_POLL` is its phase's. -/
theorem exec_poll_free : exec .poll s = .next (phaseStep s) := by
  simp [exec, execPoll, (pollFree_iff.1 hf).1, pollStep_free hf]

/-- `RING_DONE`. -/
theorem exec_poll_ring_done (hp : s.seq.phase = .ring) (he : ringEmpty s = true) :
    exec .poll s = .next (setPhase .host s) := by
  simp [exec_poll_free hf, phaseStep, hp, he]

/-- `RING_STEP`. -/
theorem exec_poll_ring_step (hp : s.seq.phase = .ring) (he : ringEmpty s = false) :
    exec .poll s = .next
      (parse (ringRead s s.ring.rd) { s with ring := { s.ring with rd := ringNext s s.ring.rd } }) := by
  simp [exec_poll_free hf, phaseStep, hp, he, ringStep_nonempty he]

/-- `HOST_DONE`. -/
theorem exec_poll_host_done (hp : s.seq.phase = .host) (hin : s.env.hostIn = []) :
    exec .poll s = .next (setPhase .ring s) := by
  simp [exec_poll_free hf, phaseStep, hp, hin]

/-- `HOST_STEP`. -/
theorem exec_poll_host_step (hp : s.seq.phase = .host) {p : Packet} {rest : List Packet}
    (hin : s.env.hostIn = p :: rest) :
    exec .poll s = .next (hostPacket p { s with env := { s.env with hostIn := rest } }) := by
  simp [exec_poll_free hf, phaseStep, hp, hin]

end

/-- Settles O60: one case for each step of the two phases; the packet's message is what `DECODE` answers. -/
theorem pollTakesThePhasesStep : Obligations.PollTakesThePhasesStep := by
  intro s hf
  refine ⟨fun hp he => ?_, fun hp hne => ⟨_, exec_parse_free _ hf, ?_⟩, fun hp hin => ?_,
    fun p rest hp hin => ⟨fun hok => ⟨_, onMessage_free hok hf, ?_⟩, fun hbad => ?_⟩⟩
  · exact exec_poll_ring_done hf hp (beq_iff_eq.2 he)
  · exact exec_poll_ring_step hf hp (beq_eq_false_iff_ne.2 hne)
  · exact exec_poll_host_done hf hp hin
  · exact (exec_poll_host_step hf hp hin).trans (congrArg _ (hostPacket_message (decodeMsg_of_msgOk rfl hok) hok))
  · exact (exec_poll_host_step hf hp hin).trans (congrArg _ (hostPacket_null (decodeMsg_of_not_msgOk rfl hbad)))

/-! ### A pending forward (R243) -/

theorem exec_poll_pending_waits {s : State} (hpend : s.seq.txPend ≠ []) (hr : ¬ sendReady s = true) :
    exec .poll s = .next s := by
  obtain ⟨b, rest, hcons⟩ := List.exists_cons_of_ne_nil hpend
  simp [exec, execPoll, pollStep, sendStep, hcons, hr]

/-- The byte just sent leaves `tx_pend`, and the last one gives the pulse (spec/43_router.md R206). -/
theorem dropSent_eq (rest : List Byte) (s : State) :
    dropSent rest s =
      { s with
        seq := { s.seq with txPend := rest }
        out := { s.out with pulseOut := if rest = [] then s.out.pulseOut + 1 else s.out.pulseOut } } := by
  cases rest <;> rfl

/-- Settles O55: the two branches of `SEND_STEP`. -/
theorem pendingForwardSendsItsFront : Obligations.PendingForwardSendsItsFront := by
  intro s b rest ha hpend
  refine ⟨fun hready => ?_, fun hwait => ?_⟩
  · exact (exec_poll_pending ha hpend (sendReady_iff.2 hready)).trans (congrArg _ (dropSent_eq rest _))
  · exact exec_poll_pending_waits (hpend ▸ List.cons_ne_nil b rest) (mt sendReady_iff.1 hwait)

/-! ### What a turn of `A_POLL` fetches (R244) -/

theorem fetchPoll_byte {s : State} (hf : pollFree s = true) (hp : s.seq.phase = .ring) (he : ringEmpty s = false) :
    fetchPoll s = (decodeByte (decodeCtx s) (ringRead s s.ring.rd),
      { s with ring := { s.ring with rd := ringNext s s.ring.rd } }) := by
  simp [fetchPoll, hf, hp, ringPop, he]

theorem fetchPoll_packet {s : State} (hf : pollFree s = true) (hp : s.seq.phase = .host) {p : Packet}
    {rest : List Packet} (hin : s.env.hostIn = p :: rest) :
    fetchPoll s = (decodePacket p, { s with env := { s.env with hostIn := rest } }) := by
  simp [fetchPoll, hf, hp, hin]

/-! ### The turns of a step (R245) -/

theorem step_unscheduled {s : State} (h : s.env.sched = []) : step s = runFetched (fetchPoll s) := by
  simp [step, h, takeTurn]

theorem step_scheduled {s : State} {t : Turn} {ts : List Turn} (h : s.env.sched = t :: ts) :
    step s = takeTurn t (setSched ts s) := by
  simp [step, h]

theorem takeTurn_rx_idle {s : State} (h : s.env.serialIn = []) : takeTurn .rx s = .next s := by
  simp [takeTurn, fetchSerial, h]

theorem takeTurn_rx_byte {s : State} {b : Byte} {rest : List Byte} (h : s.env.serialIn = b :: rest) :
    takeTurn .rx s = exec (.push b) { s with env := { s.env with serialIn := rest } } := by
  simp [takeTurn, fetchSerial, runFetched, h]

theorem advanceTime_fits {s : State} {d : Time} (h : s.env.now.toNat + d.toNat < 2 ^ 64) :
    advanceTime d s = .next { s with env := { s.env with now := s.env.now + d } } :=
  if_pos (decide_eq_true h)

theorem advanceTime_past_the_end {s : State} {d : Time} (h : 2 ^ 64 ≤ s.env.now.toNat + d.toNat) :
    advanceTime d s = .fault .timeBaseEnd :=
  if_neg (by simpa [advanceFits] using h)

/-- Settles O4: where the fetch finds a byte or a packet the step runs its row, and every turn of `A_POLL` is one step of
`POLL`. -/
theorem stepRunsTheDecodedWord : Obligations.StepRunsTheDecodedWord := by
  intro s hsched
  have hfetch : step s = runFetched (fetchPoll s) := step_unscheduled hsched
  have hpoll : step s = exec .poll s := hfetch.trans (pollTurn_eq s)
  refine ⟨fun hf hp hne => ?_, fun p rest hf hp hin => ?_, fun _ _ _ => hpoll, fun _ _ _ => hpoll, fun _ => hpoll⟩
  · exact hfetch.trans (congrArg runFetched (fetchPoll_byte hf hp (beq_eq_false_iff_ne.2 hne)))
  · exact hfetch.trans (congrArg runFetched (fetchPoll_packet hf hp hin))

/-- Settles O5: one case for each turn. -/
theorem stepTakesTheScheduledTurn : Obligations.StepTakesTheScheduledTurn := by
  intro s t ts hsched
  rw [step_scheduled hsched]
  refine ⟨?poll, ?run, ?init, ?rxIdle, ?rxByte, ?advance, ?timeBaseEnd, ?hostArrive, ?hostReady, ?serialArrive,
    ?transportOk, ?transportFailed⟩
  case poll => rintro rfl; exact pollTurn_eq _
  case rxIdle => rintro rfl hin; exact takeTurn_rx_idle hin
  case rxByte => rintro b rest rfl hin; exact takeTurn_rx_byte hin
  case advance => rintro d rfl hfits; exact advanceTime_fits hfits
  case timeBaseEnd => rintro d rfl hend; exact advanceTime_past_the_end hend
  case run | init | hostArrive | hostReady | serialArrive | transportOk | transportFailed => rintro _ rfl; rfl

end Sys2Proof.Machine

/-! SUPPORT AND PROOFS. The family 60_exceptions: the two loss counters (spec/60_exceptions.md R260, codes 1 and 8) and the
ownership of the state (R280). -/

namespace Sys2Proof.Machine

open Sys2Proof

/-! ### What `PARSE` is made of (spec/41_parser.md R120)

Three kinds of write: of the parser, of one of its own events, all of them malformed input (spec/60_exceptions.md R260,
codes 4 to 7), and a delivery. -/

/-- `P` is kept by each of the writes that `PARSE` is made of. -/
structure ParseKept (P : State → Prop) : Prop where
  parser : ∀ {s : State} (p : Parser), P s → P { s with parser := p }
  event : ∀ {s : State} {e : Event}, e.eventClass = .malformedInput → P s → P (raise e s)
  deliver : ∀ {s : State} (m : Message), P s → P (deliver m s)

namespace ParseKept

variable {P : State → Prop} (k : ParseKept P) {s : State} (h : P s)
include k h

theorem after_abandon : P (abandon s) := by
  unfold abandon
  split
  · exact k.event rfl h
  · exact h

theorem after_complete : P (complete s) := k.deliver _ (k.parser _ h)

theorem after_sysCommon : P (sysCommon s) := k.parser _ (k.after_abandon h)

theorem after_sysLoad (b : Byte) (n : Nat) : P (sysLoad b n s) := k.parser _ (k.after_sysCommon h)

theorem after_sysEmpty (st : ParserState) : P (sysEmpty st s) := k.parser _ (k.after_sysCommon h)

theorem after_sysUndefined (b : Byte) : P (sysUndefined b s) := k.event rfl (k.after_sysEmpty h .idle)

theorem after_sysStatus (b : Byte) : P (sysStatus b s) := by
  unfold sysStatus
  split
  · exact k.after_sysEmpty h _
  · exact k.after_sysLoad h _ _
  · exact k.after_sysLoad h _ _
  · exact k.after_sysLoad h _ _
  · exact k.after_sysUndefined h _
  · exact k.after_sysUndefined h _
  · exact k.deliver _ (k.after_sysEmpty h _)
  · exact k.after_sysUndefined h _

theorem after_parseStatus (b : Byte) : P (parseStatus b s) := by
  unfold parseStatus
  split
  · exact k.parser _ (k.after_abandon h)
  · exact k.after_sysStatus h b

theorem after_inBlock (b : Byte) : P (inBlock b s) := by
  unfold inBlock
  split
  · exact k.parser _ h
  · split
    · exact k.after_parseStatus (k.parser _ h) b
    · exact k.event rfl h

theorem after_dataFirst (b : Byte) : P (dataFirst b s) := by
  unfold dataFirst
  dsimp only
  split
  · exact k.after_complete (k.parser _ h)
  · exact k.parser _ h

theorem after_parseData (b : Byte) : P (parseData b s) := by
  unfold parseData
  split
  · exact k.after_dataFirst h b
  · exact k.after_complete (k.parser _ h)
  · exact k.event rfl h
  · split
    · exact k.after_dataFirst (k.parser _ h) b
    · exact k.event rfl h

theorem after_parse (b : Byte) : P (parse b s) := by
  unfold parse
  split
  · exact k.deliver _ h
  · split
    · exact k.after_inBlock h b
    · split
      · exact k.after_parseStatus h b
      · exact k.after_parseData h b

end ParseKept

/-! ### The loss counters (spec/60_exceptions.md R260, codes 1 and 8)

Only `POLICY_DROP` and a `PUSH` into a full ring write a loss counter, and each records the counter's event in the same
step. Every other operation leaves both counters and, if it records an event, records one that neither of them counts. -/

/-- An event of malformed input has one of the codes 4 to 7 and 9. -/
theorem uncounted_of_malformedInput {e : Event} (h : e.eventClass = .malformedInput) :
    isRingOverflow e = false ∧ isPolicyDrop e = false := by
  cases e with
  | strayData | sysexDiscard | partialAbandoned | undefinedStatus | packetNull => exact ⟨rfl, rfl⟩
  | ringOverflow | mailboxOverwrite | hostNotReady | policyDrop | initFailure => simp [Event.eventClass] at h

namespace CounterInv

variable {s t : State}

/-- An operation that leaves both counters and the event log. -/
theorem congr (h : CounterInv s)
    (he : (t.ring.overflow, t.rtDrop, t.out.events) = (s.ring.overflow, s.rtDrop, s.out.events)) : CounterInv t := by
  simp only [Prod.mk.injEq] at he
  obtain ⟨hoverflow, hdrop, hevents⟩ := he
  exact ⟨by rw [hoverflow, hevents, h.overflow], by rw [hdrop, hevents, h.drops]⟩

theorem after_raise (h : CounterInv s) {e : Event} (hr : isRingOverflow e = false) (hd : isPolicyDrop e = false) :
    CounterInv (raise e s) :=
  ⟨by simp [hr, h.overflow], by simp [hd, h.drops]⟩

theorem after_policyDrop (h : CounterInv s) (m : Message) : CounterInv (policyDrop m s) :=
  ⟨by simp [isRingOverflow, h.overflow], by simp [isPolicyDrop, h.drops, BitVec.ofNat_add]⟩

theorem after_ringPush (h : CounterInv s) (b : Byte) : CounterInv (ringPush b s) := by
  rcases ringPush_cases b s with ⟨-, he⟩ | ⟨-, he⟩ <;> rw [he]
  · exact ⟨by simp [isRingOverflow, h.overflow, BitVec.ofNat_add], by simp [isPolicyDrop, h.drops]⟩
  · exact h.congr rfl

theorem after_mirror (h : CounterInv s) (m : Message) : CounterInv (mirror m s) := by
  unfold mirror
  split
  · exact h.congr rfl
  · exact h.after_raise rfl rfl

theorem after_route (h : CounterInv s) (m : Message) : CounterInv (route m s) := by
  rcases route_cases m s with ⟨e, -, -, he⟩ | ⟨-, -, he⟩ | ⟨-, he⟩ <;> rw [he]
  · exact h.congr rfl
  · exact h.after_policyDrop m
  · exact h

theorem after_onParserMessage (h : CounterInv s) (m : Message) : CounterInv (onParserMessage m s) :=
  (h.after_mirror m).after_route m

theorem after_hostPacket (h : CounterInv s) (p : Packet) : CounterInv (hostPacket p s) := by
  unfold hostPacket hostMessage
  split
  · exact h.after_raise rfl rfl
  · exact h.after_route _

theorem after_deliver (h : CounterInv s) (m : Message) : CounterInv (deliver m s) := by
  have hlisten := h.after_onParserMessage m
  unfold deliver
  dsimp only
  split
  · exact (hlisten.after_raise rfl rfl).congr rfl
  · exact hlisten.congr rfl

theorem parseKept : ParseKept CounterInv where
  parser _ h := h.congr rfl
  event he h := h.after_raise (uncounted_of_malformedInput he).1 (uncounted_of_malformedInput he).2
  deliver m h := h.after_deliver m

theorem after_parse (h : CounterInv s) (b : Byte) : CounterInv (parse b s) := parseKept.after_parse h b

theorem after_mbxTake (h : CounterInv s) : CounterInv (mbxTake s) := by
  rw [mbxTake_eq]
  exact h.congr rfl

theorem after_dropSent (h : CounterInv s) (rest : List Byte) : CounterInv (dropSent rest s) := by
  unfold dropSent
  dsimp only
  split <;> exact h.congr rfl

theorem after_linkPop (h : CounterInv s) : CounterInv (linkPop s) := by
  unfold linkPop
  split <;> exact h.congr rfl

theorem after_initialise (h : CounterInv s) (ok : Bool) (gap : Option Time) (ha : s.active = false)
    (hf : s.initFail = false) : CounterInv (initialise ok gap s) := by
  cases ok
  · rw [initialise_false ha hf]
    exact after_raise (s := { s with initFail := true }) (h.congr rfl) rfl rfl
  · rw [initialise_true ha hf]
    exact h.congr rfl

/-- A step of the sequencer, or of the oldest call: a byte parsed or a packet routed may drop by policy. -/
theorem after_pollStep_serveCall (h : CounterInv s) : CounterInv (pollStep s) ∧ CounterInv (serveCall s) :=
  pollStep_cases s CounterInv h
    (hset := fun _ => h.congr rfl)
    (hparse := fun _ =>
      after_parse (s := { s with ring := { s.ring with rd := ringNext s s.ring.rd } }) (h.congr rfl))
    (hhost := fun p rest _ => after_hostPacket (s := { s with env := { s.env with hostIn := rest } }) (h.congr rfl) p)
    (hret := fun _ => h.congr rfl)
    (hmbx := fun rest => after_mbxTake (s := returnCall rest s) (h.congr rfl))
    (hsend := fun _ _ _ => h.congr rfl)
    (hflush := fun _ => h.congr rfl)
    (hwait := fun _ => h.congr rfl)
    (hdrop := fun b rest _ _ => after_dropSent (s := enqueue b s) (h.congr rfl) rest)

theorem after_effect (h : CounterInv s) (e : Effect s t) : CounterInv t := by
  cases e with
  | stay => exact h
  | parsed b => exact h.after_parse b
  | hosted p => exact h.after_hostPacket p
  | decodedNull p r => exact (h.after_raise rfl rfl).congr rfl
  | delivered m => exact h.after_deliver m
  | listened m => exact h.after_onParserMessage m
  | mirrored m => exact h.after_mirror m
  | routed m => exact h.after_route m
  | dropped m => exact h.after_policyDrop m
  | popped b u hu =>
    obtain ⟨-, -, rfl⟩ := ringPop_some hu
    exact h.congr rfl
  | pushed b => exact h.after_ringPush b
  | linkPopped => exact h.after_linkPop
  | polled => exact h.after_pollStep_serveCall.1
  | served c => exact (after_pollStep_serveCall (s := callBegun c s) (h.congr rfl)).2
  | initialised ok gap ha hf => exact h.after_initialise ok gap ha hf
  | responded | forwarded | pulsed | queued | remapped => exact h.congr rfl

theorem after_envEffect (h : CounterInv s) (e : EnvEffect s t) : CounterInv t := by
  cases e <;> exact h.congr rfl

end CounterInv

/-- Settles O12: a counter and its event are written together, and a turn of the environment writes neither. -/
theorem stepKeepsCounterInv : Obligations.StepKeepsCounterInv := fun _ _ h hs =>
  step_keeps CounterInv (fun _ _ e h => h.after_effect e) (fun _ _ e h => h.after_envEffect e) hs h

/-! ### What an operation of `A_POLL` writes (spec/60_exceptions.md R280) -/

/-- What an operation of the poll context leaves, with the environment's inputs. -/
structure PollWrites (s t : State) : Prop extends PollFrame s t where
  env : t.env = s.env

namespace PollWrites

variable {s t u : State} {m : Message} {op : State → State}

theorem trans' (h : PollWrites s t) (g : PollWrites t u) : PollWrites s u :=
  ⟨h.toPollFrame.trans' g.toPollFrame, g.env.trans h.env⟩

theorem of_parserFrame (f : ParserFrame s t) : PollWrites s t := ⟨.of f, f.env⟩

theorem rfl' (s : State) : PollWrites s s := .of_parserFrame (.rfl' s)

/-- An operation that also leaves `hwq`. -/
theorem keep (he : (t.config, t.ring.mem, t.ring.wr, t.ring.overflow, t.chmap, t.active, t.initFail, t.link.minGapUs,
      t.out.linkOut, t.link.hwq, t.env) =
    (s.config, s.ring.mem, s.ring.wr, s.ring.overflow, s.chmap, s.active, s.initFail, s.link.minGapUs,
      s.out.linkOut, s.link.hwq, s.env)) : PollWrites s t := by
  simp only [Prod.mk.injEq] at he
  obtain ⟨config, mem, wr, overflow, chmap, active, initFail, gap, linkOut, hwq, env⟩ := he
  exact ⟨.keep config mem wr overflow chmap active initFail gap linkOut hwq, env⟩

theorem of_onPoll (h : onPoll op s = .next t) (hop : PollWrites s (op s)) : PollWrites s t := by
  rcases onPoll_next h with ⟨-, rfl⟩ | rfl
  · exact hop
  · exact .rfl' _

theorem of_onMessage (h : onMessage m op s = .next t) (hop : PollWrites s (op s)) : PollWrites s t := by
  rcases onMessage_next h with ⟨-, -, rfl⟩ | rfl
  · exact hop
  · exact .rfl' _

theorem of_onVoiceMessage (h : onVoiceMessage m op s = .next t) (hop : PollWrites s (op s)) : PollWrites s t := by
  rcases onVoiceMessage_next h with ⟨-, -, rfl⟩ | rfl
  · exact hop
  · exact .rfl' _

theorem of_makeCall {c : Call} (h : makeCall c s = .next t) : PollWrites s t := by
  rcases makeCall_next h with rfl | ⟨-, rfl⟩ | ⟨-, rfl⟩
  · exact .rfl' _
  · have hserve := serveCall_frame (callBegun c s)
    exact (keep rfl : PollWrites s (callBegun c s)).trans' ⟨hserve.1, hserve.2⟩
  · exact keep rfl

end PollWrites

/-- The instructions of `A_POLL`: all but the operations of `A_RX`, `A_CFG` and `A_LINK` (spec/45_poll_loop.md R244,
R245). -/
def isPollContext : Instr → Bool
  | .push _ | .mapReplace _ _ | .init _ _ | .linkPop => false
  | _ => true

theorem isPollContext_eq_false {i : Instr} (hi : isPollContext i = false) :
    (∃ b, i = .push b) ∨ (∃ map enable, i = .mapReplace map enable) ∨ (∃ ok gap, i = .init ok gap) ∨ i = .linkPop := by
  cases i
  case push b => exact .inl ⟨b, rfl⟩
  case mapReplace map enable => exact .inr (.inl ⟨map, enable, rfl⟩)
  case init ok gap => exact .inr (.inr (.inl ⟨ok, gap, rfl⟩))
  case linkPop => exact .inr (.inr (.inr rfl))
  all_goals exact nomatch hi

section

variable {i : Instr} {bytes : List Byte} {s t : State}

theorem encoderRow_writes (he : encode i = some (.encoder, bytes)) (h : exec i s = .next t) : PollWrites s t := by
  cases i
  case encChannelVoice m => exact .of_onVoiceMessage h (.keep rfl)
  case encRealTime | encSysF0 | encSysF6 | encSysF1 | encSysF3 | encSysF2 => exact .of_onPoll h (.keep rfl)
  all_goals simp [encode, encodeStreamRow, encodePacketRow] at he

theorem exec_pop_writes (h : exec .pop s = .next t) : PollWrites s t := by
  simp only [exec, execPop] at h
  refine .of_onPoll h ?_
  split
  · exact .keep rfl
  · rename_i b u hp
    obtain ⟨-, -, rfl⟩ := ringPop_some hp
    exact .keep rfl

theorem exec_decode_writes {p : Packet} (h : exec (.decode p) s = .next t) : PollWrites s t := by
  simp only [exec, execDecode] at h
  refine .of_onPoll h ?_
  unfold notePacket
  split <;> exact .keep rfl

theorem exec_encode_writes {m : Message} (h : exec (.encode m) s = .next t) : PollWrites s t := by
  simp only [exec, execEncode] at h
  split at h
  · simp at h
  · exact .of_onMessage h (.keep rfl)

/-- An operation of `A_POLL` without a bit encoding, the sequencer apart. -/
theorem portOperation_writes (he : encode i = none) (hi : isPollContext i = true) (hp : i ≠ .poll)
    (h : exec i s = .next t) : PollWrites s t := by
  cases i
  case push | mapReplace | init | linkPop => exact nomatch hi
  case poll => exact absurd rfl hp
  case pop => exact exec_pop_writes h
  case drain | mbxTake | send | flush => exact .of_makeCall h
  case parse b => exact .of_onPoll h (.of_parserFrame (parse_frame b s))
  case deliver m => exact .of_onMessage h (.of_parserFrame (deliver_frame m s))
  case decode => exact exec_decode_writes h
  case encode => exact exec_encode_writes h
  case onParserMessage m => exact .of_onMessage h (.of_parserFrame (onParserMessage_frame m s).toParserFrame)
  case mirror m => exact .of_onMessage h (.of_parserFrame (mirror_frame m s).toParserFrame)
  case route m | onHostMessage m => exact .of_onMessage h (.of_parserFrame (route_frame m s).toParserFrame)
  case policyDrop m => exact .of_onVoiceMessage h (.of_parserFrame (policyDrop_frame m s).toParserFrame)
  case forward m e => exact .of_onVoiceMessage h (.of_parserFrame (forward_frame m e s).toParserFrame)
  case pulse => exact .of_onPoll h (.keep rfl)
  all_goals simp [encode, encodeStreamRow, encodePacketRow] at he

/-- An instruction of `A_POLL` other than the sequencer, by the encoded space it belongs to. -/
theorem pollContext_writes (hi : isPollContext i = true) (hp : i ≠ .poll) (h : exec i s = .next t) : PollWrites s t := by
  rcases he : encode i with _ | ⟨f, bytes⟩
  · exact portOperation_writes he hi hp h
  · cases f with
    | stream => exact .of_parserFrame (streamRow_frame he h).1
    | packet => exact .of_parserFrame (packetRow_frame he h).1.toParserFrame
    | encoder => exact encoderRow_writes he h

theorem exec_poll_frame (h : exec .poll s = .next t) : PollFrame s t := by
  simp only [exec, execPoll, Host.Outcome.next.injEq] at h
  subst h
  split
  · exact pollStep_frame s
  · exact (PollWrites.rfl' s).toPollFrame

/-- An instruction of `A_POLL`: the sequencer alone takes a packet from the environment. -/
theorem pollContext_frame (hi : isPollContext i = true) (h : exec i s = .next t) :
    PollFrame s t ∧ (i ≠ .poll → t.env = s.env) := by
  by_cases hp : i = .poll
  · subst hp
    exact ⟨exec_poll_frame h, absurd rfl⟩
  · have hw := pollContext_writes hi hp h
    exact ⟨hw.toPollFrame, fun _ => hw.env⟩

/-! ### What the operations of `A_RX`, `A_CFG` and `A_LINK` write (spec/60_exceptions.md R280) -/

/-- `PUSH` writes the ring, but not `rb_rd`, and the event log. -/
theorem exec_push_next {b : Byte} (h : exec (.push b) s = .next t) :
    ∃ (r : Ring) (es : List Event), r.rd = s.ring.rd ∧ t = { s with ring := r, out := { s.out with events := es } } := by
  simp only [exec, execPush, receiveInterrupt, Host.Outcome.next.injEq] at h
  subst h
  split
  · rcases ringPush_cases b s with ⟨-, he⟩ | ⟨-, he⟩
    · exact ⟨{ s.ring with overflow := s.ring.overflow + 1#32 }, s.out.events ++ [Event.ringOverflow b], rfl, he⟩
    · exact ⟨{ s.ring with mem := s.ring.mem.write (ringIndex s s.ring.wr) b, wr := ringNext s s.ring.wr }, s.out.events,
        rfl, he⟩
  · exact ⟨s.ring, s.out.events, rfl, rfl⟩

/-- `INIT` writes `active`, `init_fail`, the gap and the event log. -/
theorem exec_init_next {ok : Bool} {gap : Option Time} (h : exec (.init ok gap) s = .next t) :
    ∃ (g : Time) (a f : Bool) (es : List Event), t =
      { s with link := { s.link with minGapUs := g }, active := a, initFail := f, out := { s.out with events := es } } := by
  simp only [exec, execInit, Host.Outcome.next.injEq] at h
  subst h
  unfold initialise
  split
  · exact ⟨s.link.minGapUs, s.active, s.initFail, s.out.events, rfl⟩
  · split
    · exact ⟨gap.getD minGapDefault, true, s.initFail, s.out.events, rfl⟩
    · exact ⟨s.link.minGapUs, s.active, true, s.out.events ++ [.initFailure s.env.failedTransport], rfl⟩

/-- `LINK_POP` writes `hwq` and `link_out`, and of `hwq` it removes at most the front. -/
theorem exec_linkPop_next (h : exec .linkPop s = .next t) :
    ∃ q lo : List Byte, (q = s.link.hwq ∨ ∃ b, s.link.hwq = b :: q) ∧
      t = { s with link := { s.link with hwq := q }, out := { s.out with linkOut := lo } } := by
  simp only [exec, execLinkPop, Host.Outcome.next.injEq] at h
  subst h
  split
  · cases hq : s.link.hwq with
    | nil => exact ⟨s.link.hwq, s.out.linkOut, .inl hq, linkPop_empty hq⟩
    | cons b rest => exact ⟨rest, s.out.linkOut ++ [b], .inr ⟨b, rfl⟩, linkPop_front hq⟩
  · exact ⟨s.link.hwq, s.out.linkOut, .inl rfl, rfl⟩

end

/-- Settles O19: an instruction of `A_POLL` leaves what the other contexts own and appends to `hwq` only; each of the four
others writes the fields named in its own lemma. -/
theorem onlyOwnersWrite : Obligations.OnlyOwnersWrite := by
  intro i s t h
  cases hi : isPollContext i
  case true =>
    obtain ⟨f, henv⟩ := pollContext_frame hi h
    refine ⟨f.config, fun _ => ⟨fun _ => by rw [f.mem], f.mem, f.wr, f.overflow⟩, fun _ => f.chmap,
      fun _ => ⟨f.active, f.initFail, f.gap⟩, fun _ => f.linkOut, ?_, ?_, fun _ => f.hwq, ?_, henv⟩
    · rintro (⟨b, rfl⟩ | ⟨map, enable, rfl⟩ | ⟨ok, gap, rfl⟩ | rfl) <;> exact nomatch hi
    · rintro (⟨b, rfl⟩ | ⟨map, enable, rfl⟩ | ⟨ok, gap, rfl⟩) <;> exact nomatch hi
    · rintro rfl
      exact nomatch hi
  case false =>
    have hkeep : ∃ bs, s.link.hwq = s.link.hwq ++ bs := ⟨[], (List.append_nil _).symm⟩
    obtain ⟨b, rfl⟩ | ⟨map, enable, rfl⟩ | ⟨ok, gap, rfl⟩ | rfl := isPollContext_eq_false hi
    · obtain ⟨r, es, hrd, rfl⟩ := exec_push_next h
      exact ⟨rfl, fun hn => absurd rfl (hn b), fun _ => rfl, fun _ => ⟨rfl, rfl, rfl⟩, fun _ => rfl,
        fun _ => ⟨hrd, rfl, rfl, rfl, rfl, rfl, rfl, rfl, rfl, rfl, rfl, rfl⟩, fun _ => rfl, fun _ => hkeep, nofun,
        fun _ => rfl⟩
    · obtain rfl : _ = t := Host.Outcome.next.inj h
      exact ⟨rfl, fun _ => ⟨fun _ => rfl, rfl, rfl, rfl⟩, fun hn => absurd rfl (hn map enable),
        fun _ => ⟨rfl, rfl, rfl⟩, fun _ => rfl, fun _ => ⟨rfl, rfl, rfl, rfl, rfl, rfl, rfl, rfl, rfl, rfl, rfl, rfl⟩,
        fun _ => rfl, fun _ => hkeep, nofun, fun _ => rfl⟩
    · obtain ⟨g, a, f, es, rfl⟩ := exec_init_next h
      exact ⟨rfl, fun _ => ⟨fun _ => rfl, rfl, rfl, rfl⟩, fun _ => rfl, fun hn => absurd rfl (hn ok gap), fun _ => rfl,
        fun _ => ⟨rfl, rfl, rfl, rfl, rfl, rfl, rfl, rfl, rfl, rfl, rfl, rfl⟩, fun _ => rfl, fun _ => hkeep, nofun,
        fun _ => rfl⟩
    · obtain ⟨q, lo, hq, rfl⟩ := exec_linkPop_next h
      exact ⟨rfl, fun _ => ⟨fun _ => rfl, rfl, rfl, rfl⟩, fun _ => rfl, fun _ => ⟨rfl, rfl, rfl⟩, absurd rfl,
        fun _ => ⟨rfl, rfl, rfl, rfl, rfl, rfl, rfl, rfl, rfl, rfl, rfl, rfl⟩, nofun, absurd rfl, fun _ => hq,
        fun _ => rfl⟩

end Sys2Proof.Machine

/-! SUPPORT AND PROOFS. The family 70_reset_and_hazards: initialisation and the inactive block
(spec/70_reset_and_hazards.md R302, R304). -/

namespace Sys2Proof.Machine

open Sys2Proof

section

variable {s t u : State} {i : Instr}

/-! ### A well-formed instruction completes -/

theorem onPoll_completes (op : State → State) (s : State) : ∃ t, onPoll op s = .next t := by
  unfold onPoll
  split <;> exact ⟨_, rfl⟩

theorem makeCall_completes (c : Call) (s : State) : ∃ t, makeCall c s = .next t := by
  unfold makeCall
  split <;> exact ⟨_, rfl⟩

/-- Only an operation on a Message refuses, and only when its operand is none (notes/assumptions/16.md). -/
theorem exec_completes (hw : i.wf = true) (s : State) : ∃ t, exec i s = .next t := by
  cases hi : isPollStep i with
  | true =>
    obtain ⟨op, hop⟩ := exec_pollStep_gated hi hw
    obtain ⟨t, ht⟩ := onPoll_completes op s
    exact ⟨t, (hop s).trans ht⟩
  | false =>
    cases i
    case push | mapReplace | linkPop | init | poll => exact ⟨_, rfl⟩
    case drain | mbxTake | send | flush => exact makeCall_completes _ s
    all_goals exact nomatch hi

/-! ### `INIT` after `INIT` (spec/45_poll_loop.md R245) -/

theorem initialise_settled (ok : Bool) (gap : Option Time) (h : s.active = true ∨ s.initFail = true) :
    initialise ok gap s = s :=
  if_pos (Bool.or_eq_true_iff.2 h)

theorem exec_init_settled (ok : Bool) (gap : Option Time) (h : s.active = true ∨ s.initFail = true) :
    exec (.init ok gap) s = .next s :=
  congrArg Host.Outcome.next (initialise_settled ok gap h)

/-! ### What a step of the inert block leaves (R304) -/

/-- Only the Channel Map and the environment may differ, and no waiting packet is read. -/
structure InertFrame (s t : State) : Prop where
  config : t.config = s.config
  ring : t.ring = s.ring
  parser : t.parser = s.parser
  mbx : t.mbx = s.mbx
  rtDrop : t.rtDrop = s.rtDrop
  link : t.link = s.link
  seq : t.seq = s.seq
  active : t.active = s.active
  initFail : t.initFail = s.initFail
  out : t.out = s.out
  hostIn : ∃ qs, t.env.hostIn = s.env.hostIn ++ qs

namespace InertFrame

/-- A turn of the environment, or a new Channel Map, that leaves the waiting packets. -/
theorem of_env_chmap {e : Environment} (m : ChannelMap) (h : e.hostIn = s.env.hostIn) :
    InertFrame s { s with chmap := m, env := e } :=
  ⟨rfl, rfl, rfl, rfl, rfl, rfl, rfl, rfl, rfl, rfl, [], h.trans (List.append_nil _).symm⟩

theorem rfl' (s : State) : InertFrame s s := of_env_chmap s.chmap rfl

/-- A host packet arrives behind the waiting ones. -/
theorem of_hostArrive (p : Packet) (s : State) : InertFrame s (hostArrive p s) :=
  ⟨rfl, rfl, rfl, rfl, rfl, rfl, rfl, rfl, rfl, rfl, [p], rfl⟩

theorem trans' (h : InertFrame s t) (g : InertFrame t u) : InertFrame s u := by
  obtain ⟨ps, hp⟩ := h.hostIn
  obtain ⟨qs, hq⟩ := g.hostIn
  exact ⟨g.config.trans h.config, g.ring.trans h.ring, g.parser.trans h.parser, g.mbx.trans h.mbx,
    g.rtDrop.trans h.rtDrop, g.link.trans h.link, g.seq.trans h.seq, g.active.trans h.active,
    g.initFail.trans h.initFail, g.out.trans h.out, ps ++ qs, by rw [hq, hp, List.append_assoc]⟩

end InertFrame

/-- After a failed `INIT` an instruction writes the Channel Map or nothing. -/
theorem exec_inert (ha : s.active = false) (hf : s.initFail = true) (h : exec i s = .next t) : InertFrame s t := by
  obtain ⟨ok, gap, rfl⟩ | ⟨map, enable, rfl⟩ | rfl := exec_inactive ha h
  · obtain rfl : s = t := Host.Outcome.next.inj ((exec_init_settled ok gap (.inr hf)).symm.trans h)
    exact .rfl' s
  · obtain rfl : _ = t := Host.Outcome.next.inj h
    exact .of_env_chmap _ rfl
  · exact .rfl' t

theorem advanceTime_inert {d : Time} (h : advanceTime d s = .next t) : InertFrame s t := by
  unfold advanceTime at h
  split at h
  · obtain rfl : _ = t := Host.Outcome.next.inj h
    exact .of_env_chmap s.chmap rfl
  · exact nomatch h

/-- A byte that arrives is taken off the line and lost (notes/assumptions/9.md). -/
theorem takeTurn_rx_inert (ha : s.active = false) (hf : s.initFail = true) (h : takeTurn .rx s = .next t) :
    InertFrame s t := by
  cases hin : s.env.serialIn with
  | nil =>
    obtain rfl : s = t := Host.Outcome.next.inj ((takeTurn_rx_idle hin).symm.trans h)
    exact .rfl' s
  | cons b rest =>
    have htaken : InertFrame s { s with env := { s.env with serialIn := rest } } := .of_env_chmap s.chmap rfl
    exact htaken.trans' (exec_inert ha hf ((takeTurn_rx_byte hin).symm.trans h))

/-- Every turn, the agents' through `exec_inert` and the environment's own. -/
theorem takeTurn_inert {k : Turn} (ha : s.active = false) (hf : s.initFail = true) (h : takeTurn k s = .next t) :
    InertFrame s t := by
  cases k with
  | poll => exact exec_inert ha hf ((pollTurn_eq s).symm.trans h)
  | rx => exact takeTurn_rx_inert ha hf h
  | run i => exact exec_inert ha hf h
  | init gap => exact exec_inert (i := .init s.env.transportOk gap) ha hf h
  | advance d => exact advanceTime_inert h
  | hostArrive p =>
    obtain rfl : _ = t := Host.Outcome.next.inj h
    exact .of_hostArrive p s
  | hostReady | serialArrive | transportOk | transportFailed =>
    obtain rfl : _ = t := Host.Outcome.next.inj h
    exact .of_env_chmap s.chmap rfl

theorem step_inert (ha : s.active = false) (hf : s.initFail = true) (h : step s = .next t) : InertFrame s t := by
  cases hs : s.env.sched with
  | nil => exact takeTurn_inert (k := .poll) ha hf ((step_unscheduled hs).symm.trans h)
  | cons k ts =>
    have hsched : InertFrame s (setSched ts s) := .of_env_chmap s.chmap rfl
    exact hsched.trans' (takeTurn_inert (hsched.active.trans ha) (hsched.initFail.trans hf)
      ((step_scheduled hs).symm.trans h))

end

/-- Settles O24: the gate of `INIT` is closed for good once it has run, and with it closed every turn is inert. -/
theorem initHappensOnce : Obligations.InitHappensOnce := by
  refine ⟨fun s ok gap h => exec_init_settled ok gap h, fun s t ha hf h => ?_⟩
  have f := step_inert ha hf h
  exact ⟨f.active.trans ha, f.initFail.trans hf, f.config, f.ring, f.parser, f.mbx, f.rtDrop, f.link, f.seq, f.out,
    f.hostIn⟩

/-- Settles O23: every other instruction meets a closed gate, and a well-formed one completes in any state. -/
theorem inactiveBlockStaysStill : Obligations.InactiveBlockStaysStill := by
  refine ⟨fun i s t ha h hinit hmap => ?_, fun i s _ hw => exec_completes hw s⟩
  obtain ⟨ok, gap, rfl⟩ | ⟨map, enable, rfl⟩ | hst := exec_inactive ha h
  · exact absurd rfl (hinit ok gap)
  · exact absurd rfl (hmap map enable)
  · exact hst

/-- Settles O22: the two outcomes of `INIT`. -/
theorem initActivatesOrFails : Obligations.InitActivatesOrFails := fun _ _ ha hf =>
  ⟨congrArg Host.Outcome.next (initialise_true ha hf), congrArg Host.Outcome.next (initialise_false ha hf)⟩

end Sys2Proof.Machine
